-- ==== Sys2Proof/Word.lean ====
section
/-! DEFINITION. The word types of the interface: bytes on the data lines, levels of a line, and single
bits read as levels. Bit 7 of a byte is the most significant (00_scope.md R9); every value is unsigned. -/

namespace Sys2Proof

/-- A byte: what one transaction moves, bit `i` on data line `i` (00_scope.md R9, 20_memory.md R51). -/
abbrev Byte := BitVec 8

/-- A level of one line: `true` is 1 (high), `false` is 0 (low) (00_scope.md R10). -/
abbrev Level := Bool

end Sys2Proof
end

