-- ==== Sys2Proof/Syntax.lean ====
section
/-! DEFINITION. The instruction set: one constructor per row of spec/opcode_table.json. The first fifteen
are the rows of the request word (30_encoding.md R61, R63), the last ten those of the bus word (R69, R70).
A field a row ignores (RSV, an unused flag, an unused ARG; R64, R65, R67) is no operand. -/

namespace Sys2Proof

/-- The requests the requester presents to the block, and the bus words the block puts on the lines for the
controller. `pd` is the requester's post-delay in µs (30_encoding.md R66). -/
inductive Instr where
  /-- INIT, `initialize` (42_session_init.md R123). -/
  | init (pd : BitVec 16)
  /-- COMMAND, `command(byte)` (43_session_ops.md R136). -/
  | command (arg : Byte) (pd : BitVec 16)
  /-- WRITE_BYTE, `write_byte(byte)` (43_session_ops.md R137). -/
  | writeByte (arg : Byte) (pd : BitVec 16)
  /-- READ_BYTE, `read_byte() -> byte` (43_session_ops.md R138). -/
  | readByte (pd : BitVec 16)
  /-- CLEAR_DISPLAY, `clear_display()` (43_session_ops.md R139). -/
  | clearDisplay (pd : BitVec 16)
  /-- RETURN_HOME, `return_home()` (43_session_ops.md R140). -/
  | returnHome (pd : BitVec 16)
  /-- ENTRY_MODE_SET, `entry_mode_set(inc_dec, shift)` (43_session_ops.md R141). -/
  | entryModeSet (incDec shift : Bool) (pd : BitVec 16)
  /-- DISPLAY_ON_OFF, `display_on_off(display, cursor, blink)` (43_session_ops.md R142). -/
  | displayOnOff (display cursor blink : Bool) (pd : BitVec 16)
  /-- CURSOR_DISPLAY_SHIFT, `cursor_or_display_shift(shift_cursor, dir)` (43_session_ops.md R143). -/
  | cursorDisplayShift (shiftCursor dir : Bool) (pd : BitVec 16)
  /-- FUNCTION_SET, `function_set(DL, N, F)` (43_session_ops.md R144). -/
  | functionSet (dl n f : Bool) (pd : BitVec 16)
  /-- SET_CGRAM_ADDRESS, `set_cgram_address(addr)`; all 8 bits of ARG are accepted (43_session_ops.md R145). -/
  | setCgramAddress (arg : Byte) (pd : BitVec 16)
  /-- SET_DDRAM_ADDRESS, `set_ddram_address(addr)`; all 8 bits of ARG are accepted (43_session_ops.md R146). -/
  | setDdramAddress (arg : Byte) (pd : BitVec 16)
  /-- WRITE_TWO_LINES, `write_two_lines(line1, line2)`: the two lines of the operand LB
  (43_session_ops.md R147, 30_encoding.md R62); well-formed when each has 8 bytes. -/
  | writeTwoLines (line1 line2 : List Byte) (pd : BitVec 16)
  /-- The reserved opcode 0xD, rejected with E_ILLEGAL (30_encoding.md R68). -/
  | reservedD
  /-- The reserved opcodes 0xE (`odd = false`) and 0xF (`odd = true`), rejected with E_ILLEGAL
  (30_encoding.md R68). -/
  | reservedEF (odd : Bool)
  /-- The bus word of Clear Display (41_encoder.md R101). -/
  | clearDisplayI
  /-- The bus word of Return Home (41_encoder.md R102). -/
  | returnHomeI
  /-- The bus word of Entry Mode Set (41_encoder.md R103). -/
  | entryModeSetI (incDec shift : Bool)
  /-- The bus word of Display Control (41_encoder.md R104). -/
  | displayControlI (display cursor blink : Bool)
  /-- The bus word of Cursor/Display Shift (41_encoder.md R105). -/
  | cursorDisplayShiftI (shiftCursor dir : Bool)
  /-- The bus word of Function Set (41_encoder.md R106). -/
  | functionSetI (dl n f : Bool)
  /-- The bus word of Set CGRAM Address, with its 6-bit address (41_encoder.md R107). -/
  | setCgramAddressI (addr : BitVec 6)
  /-- The bus word of Set DDRAM Address, with its 7-bit address (41_encoder.md R108). -/
  | setDdramAddressI (addr : BitVec 7)
  /-- A data write, RS = 1, RW = 0 (30_encoding.md R69, 40_transport.md R88). -/
  | dataWrite (data : Byte)
  /-- A data read, RS = 1, RW = 1, with the byte the controller drives (30_encoding.md R69,
  40_transport.md R89). -/
  | dataRead (data : Byte)
deriving DecidableEq, Repr

end Sys2Proof
end

