-- ==== Sys2Proof/WellFormed.lean ====
section
/-! DEFINITION. Which instructions are well-formed. Flags are `Bool`, bytes and addresses have their widths by
type (30_encoding.md R64, R65), so what is left to check is the length of the two lines of WRITE_TWO_LINES
(30_encoding.md R62; 93_implementation_defined.md U1: a model with variable-length operands refuses other
lengths). -/

namespace Sys2Proof

/-- The length of a display row, ROW_LEN (00_scope.md R7). -/
def rowLen : Nat := 8

/-- Each of the two lines of a WRITE_TWO_LINES is exactly 8 bytes (30_encoding.md R62). -/
def Instr.wf : Instr → Bool
  | .init _ => true
  | .command _ _ => true
  | .writeByte _ _ => true
  | .readByte _ => true
  | .clearDisplay _ => true
  | .returnHome _ => true
  | .entryModeSet _ _ _ => true
  | .displayOnOff _ _ _ _ => true
  | .cursorDisplayShift _ _ _ => true
  | .functionSet _ _ _ _ => true
  | .setCgramAddress _ _ => true
  | .setDdramAddress _ _ => true
  | .writeTwoLines line1 line2 _ => line1.length == rowLen && line2.length == rowLen
  | .reservedD => true
  | .reservedEF _ => true
  | .clearDisplayI => true
  | .returnHomeI => true
  | .entryModeSetI _ _ => true
  | .displayControlI _ _ _ => true
  | .cursorDisplayShiftI _ _ => true
  | .functionSetI _ _ _ => true
  | .setCgramAddressI _ => true
  | .setDdramAddressI _ => true
  | .dataWrite _ => true
  | .dataRead _ => true

end Sys2Proof
end

