-- ==== Sys2Proof/Decode.lean ====
section
/-! DEFINITION. Encoding and decoding of the two codes: the request word REQ with its line operand LB
(30_encoding.md R60 to R68) and the bus word (30_encoding.md R69 to R75). Decoding is total; what is no row of
the table is rejected by name. The encoder is written from the same tables. -/

namespace Sys2Proof

/-- Why a bit pattern is no instruction of the table. -/
inductive DecodeError where
  /-- Neither the 2 bytes of a bus word nor the 20 bytes of a request word with its LB. -/
  | badLength (n : Nat)
  /-- A bus word of 2 bytes with a bit above bit 9 set (a bus word has 10 bits, 30_encoding.md R69). -/
  | strayBits
  /-- RS = 0, RW = 1: the instruction read, which is outside the block (30_encoding.md R73). -/
  | instructionRead
  /-- One of the 38 instruction bytes the encoder never produces (30_encoding.md R72). -/
  | unencodedByte (b : Byte)
deriving DecidableEq, Repr

/-- A word of one of the two codes. -/
inductive Code where
  /-- What the request port carries: REQ and LB (30_encoding.md R60). -/
  | request (req : BitVec 32) (lb : BitVec 128)
  /-- What the lines carry: RS (bit 9), RW (bit 8), DB7..DB0 (30_encoding.md R69). -/
  | bus (w : BitVec 10)
deriving DecidableEq, Repr

/-! ## Request word -/

/-- `REQ = PD << 16 | ARG << 8 | RSV << 7 | F2 << 6 | F1 << 5 | F0 << 4 | OP` with RSV = 0 (30_encoding.md R61). -/
def packReq (pd : BitVec 16) (arg : Byte) (f2 f1 f0 : Bool) (op : BitVec 4) : BitVec 32 :=
  (pd.setWidth 32 <<< 16) ||| (arg.setWidth 32 <<< 8) ||| ((BitVec.ofBool f2).setWidth 32 <<< 6) |||
    ((BitVec.ofBool f1).setWidth 32 <<< 5) ||| ((BitVec.ofBool f0).setWidth 32 <<< 4) ||| op.setWidth 32

/-- OP, bits 3:0 (30_encoding.md R61). -/
def reqOp (req : BitVec 32) : BitVec 4 := req.extractLsb' 0 4

/-- ARG, bits 15:8 (30_encoding.md R61). -/
def reqArg (req : BitVec 32) : Byte := req.extractLsb' 8 8

/-- PD, bits 31:16 (30_encoding.md R61). -/
def reqPd (req : BitVec 32) : BitVec 16 := req.extractLsb' 16 16

/-- F0, F1, F2 at bits 4, 5, 6 (30_encoding.md R61). -/
def reqFlag (req : BitVec 32) (k : Nat) : Bool := req.getLsbD (4 + k)

/-- `LB[k] = LBbits[8k+7 : 8k]` (30_encoding.md R62). -/
def lbByte (lb : BitVec 128) (k : Nat) : Byte := lb.extractLsb' (8 * k) 8

/-- `line1`, the bytes LB[0..7] (30_encoding.md R62). -/
def lbLine1 (lb : BitVec 128) : List Byte := (List.range 8).map fun k => lbByte lb k

/-- `line2`, the bytes LB[8..15] (30_encoding.md R62). -/
def lbLine2 (lb : BitVec 128) : List Byte := (List.range 8).map fun k => lbByte lb (8 + k)

/-- The line operand with the given bytes, the first at bits 7:0 (30_encoding.md R62). -/
def packLb : List Byte → BitVec 128
  | [] => 0
  | b :: bs => b.setWidth 128 ||| (packLb bs <<< 8)

/-- The request a request word stands for: every value of OP is one (30_encoding.md R63, R68); RSV, the flags
and the ARG a request does not use are ignored (R64, R65, R67). -/
def decodeRequest (req : BitVec 32) (lb : BitVec 128) : Instr :=
  match (reqOp req).toNat with
  | 0x0 => .init (reqPd req)
  | 0x1 => .command (reqArg req) (reqPd req)
  | 0x2 => .writeByte (reqArg req) (reqPd req)
  | 0x3 => .readByte (reqPd req)
  | 0x4 => .clearDisplay (reqPd req)
  | 0x5 => .returnHome (reqPd req)
  | 0x6 => .entryModeSet (reqFlag req 1) (reqFlag req 0) (reqPd req)
  | 0x7 => .displayOnOff (reqFlag req 2) (reqFlag req 1) (reqFlag req 0) (reqPd req)
  | 0x8 => .cursorDisplayShift (reqFlag req 1) (reqFlag req 0) (reqPd req)
  | 0x9 => .functionSet (reqFlag req 2) (reqFlag req 1) (reqFlag req 0) (reqPd req)
  | 0xA => .setCgramAddress (reqArg req) (reqPd req)
  | 0xB => .setDdramAddress (reqArg req) (reqPd req)
  | 0xC => .writeTwoLines (lbLine1 lb) (lbLine2 lb) (reqPd req)
  | 0xD => .reservedD
  | _ => .reservedEF (req.getLsbD 0)

/-! ## Bus word -/

/-- The bus word of RS, RW and a byte (30_encoding.md R69). -/
def busWord (rs rw : Level) (b : Byte) : BitVec 10 :=
  ((BitVec.ofBool rs).setWidth 10 <<< 9) ||| ((BitVec.ofBool rw).setWidth 10 <<< 8) ||| b.setWidth 10

/-- RS, bit 9 of a bus word (30_encoding.md R69). -/
def busRs (w : BitVec 10) : Level := w.getLsbD 9

/-- RW, bit 8 of a bus word (30_encoding.md R69). -/
def busRw (w : BitVec 10) : Level := w.getLsbD 8

/-- DB7..DB0, bits 7:0 of a bus word (30_encoding.md R69). -/
def busByte (w : BitVec 10) : Byte := w.extractLsb' 0 8

/-- The instruction an instruction byte encodes, by its highest set bit (30_encoding.md R70, R75); the 38 bytes
of R72 encode none. -/
def decodeByte (b : Byte) : Except DecodeError Instr :=
  if b.getLsbD 7 then .ok (.setDdramAddressI (b.extractLsb' 0 7))
  else if b.getLsbD 6 then .ok (.setCgramAddressI (b.extractLsb' 0 6))
  else if b.getLsbD 5 then
    if b.getLsbD 1 || b.getLsbD 0 then .error (.unencodedByte b)
    else .ok (.functionSetI (b.getLsbD 4) (b.getLsbD 3) (b.getLsbD 2))
  else if b.getLsbD 4 then
    if b.getLsbD 1 || b.getLsbD 0 then .error (.unencodedByte b)
    else .ok (.cursorDisplayShiftI (b.getLsbD 3) (b.getLsbD 2))
  else if b.getLsbD 3 then .ok (.displayControlI (b.getLsbD 2) (b.getLsbD 1) (b.getLsbD 0))
  else if b.getLsbD 2 then .ok (.entryModeSetI (b.getLsbD 1) (b.getLsbD 0))
  else if b.getLsbD 1 then if b.getLsbD 0 then .error (.unencodedByte b) else .ok .returnHomeI
  else if b.getLsbD 0 then .ok .clearDisplayI
  else .error (.unencodedByte b)

/-- The instruction a bus word stands for: the three kinds the block issues (30_encoding.md R69); the
instruction read is none of them (R73). -/
def decodeBus (w : BitVec 10) : Except DecodeError Instr :=
  if busRs w then
    if busRw w then .ok (.dataRead (busByte w)) else .ok (.dataWrite (busByte w))
  else if busRw w then .error .instructionRead
  else decodeByte (busByte w)

/-- The instruction a word of either code stands for. -/
def decodeCode : Code → Except DecodeError Instr
  | .request req lb => .ok (decodeRequest req lb)
  | .bus w => decodeBus w

/-! ## Bytes

Neither code is stored in memory (20_memory.md R40, R58), so their layout as bytes is the model's own: bit 0 in
the first byte. DESIGN CHOICE, safe: nothing but the host's interface reads it (notes/assumptions/20.md). -/

/-- `n` bytes of a number, least significant first. -/
def bytesOfNat : Nat → Nat → List Byte
  | 0, _ => []
  | n + 1, v => BitVec.ofNat 8 v :: bytesOfNat n (v / 256)

/-- The number of a list of bytes, least significant first. -/
def natOfBytes : List Byte → Nat
  | [] => 0
  | b :: bs => b.toNat + 256 * natOfBytes bs

/-- The word a list of bytes lays out: 2 bytes are a bus word, 20 bytes a request word and its LB. -/
def codeOfBytes (bytes : List Byte) : Except DecodeError Code :=
  if bytes.length = 2 then
    if natOfBytes bytes < 1024 then .ok (.bus (BitVec.ofNat 10 (natOfBytes bytes))) else .error .strayBits
  else if bytes.length = 20 then
    .ok (.request (BitVec.ofNat 32 (natOfBytes bytes)) (BitVec.ofNat 128 (natOfBytes bytes / 2 ^ 32)))
  else .error (.badLength bytes.length)

/-- The instruction a list of bytes stands for; total, rejecting by name. -/
def decode (bytes : List Byte) : Except DecodeError Instr :=
  match codeOfBytes bytes with
  | .ok c => decodeCode c
  | .error e => .error e

/-! ## Encoder -/

/-- The word of an instruction, from the same tables: 30_encoding.md R61 to R66 for requests, with every ignored
field written 0, and 30_encoding.md R69, R70 for bus words. -/
def encodeCode : Instr → Code
  | .init pd => .request (packReq pd 0 false false false 0x0) 0
  | .command arg pd => .request (packReq pd arg false false false 0x1) 0
  | .writeByte arg pd => .request (packReq pd arg false false false 0x2) 0
  | .readByte pd => .request (packReq pd 0 false false false 0x3) 0
  | .clearDisplay pd => .request (packReq pd 0 false false false 0x4) 0
  | .returnHome pd => .request (packReq pd 0 false false false 0x5) 0
  | .entryModeSet i s pd => .request (packReq pd 0 false i s 0x6) 0
  | .displayOnOff d c b pd => .request (packReq pd 0 d c b 0x7) 0
  | .cursorDisplayShift sc rl pd => .request (packReq pd 0 false sc rl 0x8) 0
  | .functionSet dl n f pd => .request (packReq pd 0 dl n f 0x9) 0
  | .setCgramAddress arg pd => .request (packReq pd arg false false false 0xA) 0
  | .setDdramAddress arg pd => .request (packReq pd arg false false false 0xB) 0
  | .writeTwoLines l1 l2 pd => .request (packReq pd 0 false false false 0xC) (packLb (l1 ++ l2))
  | .reservedD => .request (packReq 0 0 false false false 0xD) 0
  | .reservedEF odd => .request (packReq 0 0 false false false (if odd then 0xF else 0xE)) 0
  | .clearDisplayI => .bus (busWord false false 0x01)
  | .returnHomeI => .bus (busWord false false 0x02)
  | .entryModeSetI i s => .bus (busWord false false
      (0x04 ||| ((BitVec.ofBool i).setWidth 8 <<< 1) ||| (BitVec.ofBool s).setWidth 8))
  | .displayControlI d c b => .bus (busWord false false
      (0x08 ||| ((BitVec.ofBool d).setWidth 8 <<< 2) ||| ((BitVec.ofBool c).setWidth 8 <<< 1) |||
        (BitVec.ofBool b).setWidth 8))
  | .cursorDisplayShiftI sc rl => .bus (busWord false false
      (0x10 ||| ((BitVec.ofBool sc).setWidth 8 <<< 3) ||| ((BitVec.ofBool rl).setWidth 8 <<< 2)))
  | .functionSetI dl n f => .bus (busWord false false
      (0x20 ||| ((BitVec.ofBool dl).setWidth 8 <<< 4) ||| ((BitVec.ofBool n).setWidth 8 <<< 3) |||
        ((BitVec.ofBool f).setWidth 8 <<< 2)))
  | .setCgramAddressI a => .bus (busWord false false (0x40 ||| a.setWidth 8))
  | .setDdramAddressI a => .bus (busWord false false (0x80 ||| a.setWidth 8))
  | .dataWrite d => .bus (busWord true false d)
  | .dataRead d => .bus (busWord true true d)

/-- The bytes of a word: 20 of a request (REQ, then LB), 2 of a bus word. -/
def Code.bytes : Code → List Byte
  | .request req lb => bytesOfNat 20 (req.toNat + 2 ^ 32 * lb.toNat)
  | .bus w => bytesOfNat 2 w.toNat

/-- The bytes of an instruction. -/
def encode (i : Instr) : List Byte := (encodeCode i).bytes

/-! ## The host's word -/

/-- Whether a row of `nbits` bits is a row of the bus word. The table has two widths: 10 bits (2 bytes) for bus
words and 32 for request words, whose row fixes only the 4 bits of OP (notes/assumptions/20.md). -/
def isBusWidth (nbits : Nat) : Bool := 8 < nbits && nbits ≤ 16

/-- The bytes of an instruction whose table bits are `w`, every bit above `nbits` 0. -/
def tableBytes (nbits w : Nat) : List Byte :=
  bytesOfNat (if isBusWidth nbits then 2 else 20) (w % 2 ^ nbits)

/-- The instruction the decoder reads from an instruction whose bits are `w`. -/
def decodeTableWord (nbits w : Nat) : Option Instr :=
  match decode (tableBytes nbits w) with
  | .ok i => some i
  | .error _ => none

end Sys2Proof
end

