-- ==== Sys2Proof/Config.lean ====
section
/-! DEFINITION. What is fixed for one machine (00_scope.md R6, R8): the time constants, the time base, the
wiring, which cells the controller has; and the free values, constants without a body, which stand for what
the spec leaves open (93_implementation_defined.md, treatment "any value"). -/

namespace Sys2Proof

/-- The parameters of one machine. The time constants may differ from the source's numbers
(93_implementation_defined.md U17: "configuration fields, defaulting to the source's values"); T_TICK, T_SETUP
and PINMAP are OPEN (U18, U21); which controller addresses have a cell is not in the source
(91_not_in_source.md N9; notes/assumptions/4.md). All times are in ns. -/
structure Config where
  /-- T_TICK, the period of the time base (00_scope.md R8). -/
  tTick : Nat
  /-- T_SETUP, the controller's largest setup or hold time (00_scope.md R8). -/
  tSetup : Nat
  /-- T_EH, the minimum enable-high time (00_scope.md R6). -/
  tEH : Nat
  /-- T_PWR, the wait at the start of initialization (00_scope.md R6). -/
  tPwr : Nat
  /-- T_WAKE1, the wait after the first wake instruction (00_scope.md R6). -/
  tWake1 : Nat
  /-- T_INIT_SHORT, the other waits of initialization (00_scope.md R6). -/
  tInitShort : Nat
  /-- T_DATA, the wait after each data byte of the two-line write (00_scope.md R6). -/
  tData : Nat
  /-- T_CLEAR, the settling time of clear display and return home (00_scope.md R6). -/
  tClear : Nat
  /-- T_CMD, the settling time of every other instruction (00_scope.md R6). -/
  tCmd : Nat
  /-- Bit `a` says that DDRAM address `a` has a cell (91_not_in_source.md N9). -/
  ddramCells : BitVec 128
  /-- Bit `a` says that CGRAM address `a` has a cell (91_not_in_source.md N9). -/
  cgramCells : BitVec 64
  /-- Whether the controller's AC counts on past the last column of a display row: yes is R47's AC + 1 as
  43_session_ops.md R147 takes it, no is any value (93_implementation_defined.md U12; notes/assumptions/10.md). -/
  acCountsPastRow : Bool
  /-- PINMAP: the physical lines of RS, RW, E, DB0 to DB7, in this order (00_scope.md R8, 10_state.md R35). -/
  pinMap : List Nat
deriving DecidableEq, Repr

/-- The source's time constants (00_scope.md R6), with the parameters the spec leaves open at the model's
choice. DESIGN CHOICE T_TICK = 1000 ns as in every vector of 95_test_vectors.md (notes/assumptions/1.md),
T_SETUP = 1000 ns (notes/assumptions/2.md), PINMAP the lines 0 to 10 (notes/assumptions/3.md), every address
with a cell (notes/assumptions/4.md): unsafe for a claim that rests on them. AC past the end of a row is any value, as
U12 asks (notes/assumptions/10.md). -/
def Config.source : Config where
  tTick := 1000
  tSetup := 1000
  tEH := 1000
  tPwr := 40000000
  tWake1 := 5000000
  tInitShort := 160000
  tData := 160000
  tClear := 1500000
  tCmd := 40000
  ddramCells := BitVec.allOnes 128
  cgramCells := BitVec.allOnes 64
  acCountsPastRow := false
  pinMap := [0, 1, 2, 3, 4, 5, 6, 7, 8, 9, 10]

/-- The level pattern of the data lines where no rule gives it: a draw, under no law (10_state.md R28,
20_memory.md R44, 93_implementation_defined.md U6, U19). A free value (notes/assumptions/12.md). -/
opaque Config.freeByte : Nat → BitVec 8

/-- The controller's address counter (bits 6:0), selected memory (bit 7) and eight mode flags (bits 15:8) where
the spec makes them unknown (20_memory.md R48, R50; 93_implementation_defined.md U5, U7 to U12). A free value
(notes/assumptions/6.md). -/
opaque Config.freeController : Nat → BitVec 16

end Sys2Proof
end

