-- ==== Sys2Proof/Machine/State.lean ====
section
/-! DEFINITION. The state of the machine as plain data: the block's registers (10_state.md R15), the fixed
parameters, the external controller of the environment contract (20_memory.md R43 to R50), and the inputs of
the block as data of the agents that make them (00_scope.md R13). -/

namespace Sys2Proof.Machine

open Sys2Proof

/-- Why the machine stops with a fault. -/
inductive Fault where
  /-- Raised by the tick in which E rises before the attached controller's settling time has passed: "the
  controller's behavior after a foreshortened delay is undefined" (20_memory.md R49); the spec's treatment is a
  fault (93_implementation_defined.md U3). Safe: the model stops. -/
  | settlingViolated
  /-- Raised by every tick of a state with RSP_ERR = 3, the reserved code (60_exceptions.md R158): "must treat it
  as a fault of the model" (U16). Safe: the model stops. -/
  | reservedResponse
deriving DecidableEq, Repr

/-- Why the machine gives an instruction no meaning. -/
inductive Refusal where
  /-- Raised by no meaning: an instruction that has none yet. Safe. -/
  | notModelled (mnemonic : String)
  /-- Raised by WRITE_TWO_LINES with a line that is not 8 bytes, which no request word can express
  (30_encoding.md R62); the spec's treatment is to refuse (93_implementation_defined.md U1). Safe. -/
  | lineLength
deriving DecidableEq, Repr

/-- The values of SESSION (10_state.md R16). -/
inductive Session where
  | uninit
  | ready
deriving DecidableEq, Repr

/-- The values of SEQ (10_state.md R17). -/
inductive Seq where
  | idle
  | run
deriving DecidableEq, Repr

/-- The values of DIR, the direction of the 8 data lines (10_state.md R26): `output` is 1. -/
inductive Dir where
  | input
  | output
deriving DecidableEq, Repr

/-- The micro-ops (40_transport.md R80). -/
inductive MicroOp where
  | dirOut
  | dirIn
  | drive (b : Byte)
  | setRs (v : Level)
  | setRw (v : Level)
  | setE (v : Level)
  | sample
  /-- WAIT(n), 1 ≤ n ≤ 2^32 − 1. -/
  | wait (n : BitVec 32)
deriving DecidableEq, Repr

/-- The two memories of the controller (20_memory.md R41). -/
inductive Space where
  | ddram
  | cgram
deriving DecidableEq, Repr

/-- A memory of the controller: the cells whose content is known, in strictly rising order of address. An address
that is not listed has no known content (20_memory.md R50; notes/assumptions/6.md). -/
abbrev Memory := List Host.Cell

/-- The mode flags of the controller, named by the fields of the instruction bytes (41_encoder.md R111): as INIT sets them,
and free values after a word with other flags than INIT's (20_memory.md R48). -/
structure Modes where
  /-- I, address increments. -/
  incDec : Bool
  /-- S. -/
  shift : Bool
  /-- D, display on. -/
  display : Bool
  /-- C, cursor on. -/
  cursor : Bool
  /-- B. -/
  blink : Bool
  /-- DL, 8-bit bus. -/
  dl : Bool
  /-- N, two lines. -/
  n : Bool
  /-- F. -/
  f : Bool
deriving DecidableEq, Repr

/-- The external controller, as far as the environment contract gives it (20_memory.md R43 to R50), with the
times of the E line that the contract refers to. -/
structure Controller where
  /-- AC, the address counter (20_memory.md R41, R45); CGRAM uses its low 6 bits. -/
  ac : BitVec 7
  /-- The memory AC selects (20_memory.md R45). -/
  space : Space
  /-- DDRAM (20_memory.md R41). -/
  ddram : Memory
  /-- CGRAM (20_memory.md R41). -/
  cgram : Memory
  /-- The mode flags (41_encoder.md R111, 42_session_init.md R125). -/
  modes : Modes
  /-- Whether the contract's rules apply; if not, the controller's state is unknown until a handshake
  completes (20_memory.md R50, 70_reset_and_hazards.md R177, R189; notes/assumptions/7.md). -/
  known : Bool
  /-- The last words the controller latched or served, at most seven, the newest last, each with the time E was
  low before it: what the handshake is recognised by (42_session_init.md R123, R126; notes/assumptions/7.md). -/
  recent : List (BitVec 10 × Nat)
  /-- Whether the controller was powered when the last INIT was accepted, and nothing has made its state unknown since:
  the condition of 70_reset_and_hazards.md R179, item 3 (92_eei_decisions.md D22; notes/assumptions/7.md). -/
  poweredForInit : Bool
  /-- Time since the controller was powered, in ns; 0 if that was in this tick (70_reset_and_hazards.md R179). -/
  up : Nat
  /-- Time since the last edge of E, in ns (20_memory.md R49, 70_reset_and_hazards.md R182). -/
  sinceEdge : Nat
  /-- How long E was low, with the controller powered, before the present pulse, in ns. -/
  gap : Nat
  /-- The settling time the last transaction needs, in ns (20_memory.md R49). -/
  need : Nat
deriving DecidableEq, Repr

/-- Who sets the data lines while DIR = 0 (10_state.md R28). -/
inductive LineEnv where
  /-- The attached controller, whose reads the block takes as draws, inputs under no law (20_memory.md R44,
  92_eei_decisions.md D28). -/
  | controller
  /-- The attached controller, with the draw the contract gives: a data read is the cell AC selects (20_memory.md R44
  [derived]; program P3 of 95_test_vectors.md; notes/assumptions/13.md). -/
  | contract
  /-- Nobody, or nothing known: an absent controller, floating lines (92_eei_decisions.md D28, D29). -/
  | undriven
  /-- A loopback data register that returns the byte last driven (40_transport.md R94). -/
  | loopback
deriving DecidableEq, Repr

/-- A request as presented: REQ and LB, held stable (42_session_init.md R115). -/
structure Request where
  req : BitVec 32
  lb : BitVec 128
deriving DecidableEq, Repr

/-- What the requester does next (42_session_init.md R115): it presents a request until it is taken, or it holds
REQ_VALID = 0 for one tick. -/
inductive RequesterStep where
  | present (r : Request)
  | idle
deriving DecidableEq, Repr

/-- What else happens in one tick: the level of RST (70_reset_and_hazards.md R175), and whether the controller is
power-cycled (R180). -/
structure TickEvent where
  rst : Level
  powerCycle : Bool
deriving DecidableEq, Repr

/-- The state of the machine. -/
structure State where
  /-- The fixed parameters; no step writes them (notes/assumptions/1.md). -/
  cfg : Config
  /-- SESSION (10_state.md R16). -/
  session : Session
  /-- SEQ (10_state.md R17). -/
  seq : Seq
  /-- CUR_OP (10_state.md R18). -/
  curOp : BitVec 4
  /-- MQ (10_state.md R19). -/
  mq : List MicroOp
  /-- TIMER (10_state.md R20). -/
  timer : BitVec 32
  /-- RS_O (10_state.md R23). -/
  rsO : Level
  /-- RW_O (10_state.md R24). -/
  rwO : Level
  /-- E_O (10_state.md R25). -/
  eO : Level
  /-- DIR (10_state.md R26). -/
  dir : Dir
  /-- DB_O (10_state.md R27). -/
  dbO : Byte
  /-- RDATA (10_state.md R29). -/
  rdata : Byte
  /-- RSP_VALID (10_state.md R30). -/
  rspValid : Bool
  /-- RSP_ERR (10_state.md R30). -/
  rspErr : BitVec 2
  /-- RSP_DATA (10_state.md R30). -/
  rspData : Byte
  /-- Who sets the data lines while DIR = 0. -/
  env : LineEnv
  /-- The external controller. -/
  ctrl : Controller
  /-- What the requester presents in this and the coming ticks. -/
  requester : List RequesterStep
  /-- RST and the power cycles of this and the coming ticks; quiet after the last entry. -/
  events : List TickEvent
  /-- How many free values have been drawn: the model's own field (notes/assumptions/12.md). -/
  draws : Nat
deriving DecidableEq, Repr

/-! ## Free values -/

/-- The mode flags of draw `n`. -/
def freeModes (n : Nat) : Modes where
  incDec := (Config.freeController n).getLsbD 8
  shift := (Config.freeController n).getLsbD 9
  display := (Config.freeController n).getLsbD 10
  cursor := (Config.freeController n).getLsbD 11
  blink := (Config.freeController n).getLsbD 12
  dl := (Config.freeController n).getLsbD 13
  n := (Config.freeController n).getLsbD 14
  f := (Config.freeController n).getLsbD 15

/-- The address counter of draw `n`. -/
def freeAc (n : Nat) : BitVec 7 := (Config.freeController n).extractLsb' 0 7

/-- The selected memory of draw `n`. -/
def freeSpace (n : Nat) : Space := if (Config.freeController n).getLsbD 7 then .cgram else .ddram

/-! ## Reset -/

/-- A controller just powered: its state is arbitrary (20_memory.md R50), given by draw `n`, and no time has
passed (notes/assumptions/7.md, 16.md). -/
def Controller.powerUp (n : Nat) : Controller where
  ac := freeAc n
  space := freeSpace n
  ddram := []
  cgram := []
  modes := freeModes n
  known := false
  recent := []
  poweredForInit := false
  up := 0
  sinceEdge := 0
  gap := 0
  need := 0

/-- The machine right after reset: the registers of 10_state.md R36 (notes/assumptions/21.md), the source's parameters,
a controller in an arbitrary state (20_memory.md R50), and nothing presented. DESIGN CHOICE the parameters the spec
leaves open, the attached controller, the empty inputs (notes/assumptions/1.md, 13.md, 14.md, 15.md). -/
def State.reset : State where
  cfg := Config.source
  session := .uninit
  seq := .idle
  curOp := 0
  mq := []
  timer := 0
  rsO := false
  rwO := false
  eO := false
  dir := .output
  dbO := 0
  rdata := 0
  rspValid := false
  rspErr := 0
  rspData := 0
  env := .controller
  ctrl := Controller.powerUp 0
  requester := []
  events := []
  draws := 1

end Sys2Proof.Machine
end

