-- ==== Sys2Proof/Machine/Operands.lean ====
section
/-! DEFINITION. The operand computations: the instruction encoder (41_encoder.md R100 to R109), the class of an
instruction byte (30_encoding.md R75), the settling floor (41_encoder.md R110), the conversion of a delay to
ticks (40_transport.md R84) and of PD to ns (42_session_init.md R119). All are total and free of side effects. -/

namespace Sys2Proof.Machine

open Sys2Proof

/-! ## Encoder -/

/-- A flag of field position `p` contributes `f << p` (30_encoding.md R71). -/
def flagAt (f : Bool) (p : Nat) : Byte := (BitVec.ofBool f).setWidth 8 <<< p

/-- `enc_clear() = 0x01` (41_encoder.md R101). -/
def encClear : Byte := 0x01

/-- `enc_home() = 0x02` (41_encoder.md R102). -/
def encHome : Byte := 0x02

/-- `enc_entry(inc_dec, shift) = 0x04 | inc_dec << 1 | shift` (41_encoder.md R103). -/
def encEntry (incDec shift : Bool) : Byte := 0x04 ||| flagAt incDec 1 ||| flagAt shift 0

/-- `enc_display(display, cursor, blink) = 0x08 | display << 2 | cursor << 1 | blink` (41_encoder.md R104). -/
def encDisplay (display cursor blink : Bool) : Byte :=
  0x08 ||| flagAt display 2 ||| flagAt cursor 1 ||| flagAt blink 0

/-- `enc_shift(shift_cursor, dir) = 0x10 | shift_cursor << 3 | dir << 2` (41_encoder.md R105). -/
def encShift (shiftCursor dir : Bool) : Byte := 0x10 ||| flagAt shiftCursor 3 ||| flagAt dir 2

/-- `enc_funcset(DL, N, F) = 0x20 | DL << 4 | N << 3 | F << 2` (41_encoder.md R106). -/
def encFuncset (dl n f : Bool) : Byte := 0x20 ||| flagAt dl 4 ||| flagAt n 3 ||| flagAt f 2

/-- `enc_cgram(addr) = 0x40 | (addr & 0x3F)` (41_encoder.md R107). -/
def encCgram (addr : Byte) : Byte := 0x40 ||| (addr &&& 0x3F)

/-- `enc_ddram(addr) = 0x80 | (addr & 0x7F)` (41_encoder.md R108). -/
def encDdram (addr : Byte) : Byte := 0x80 ||| (addr &&& 0x7F)

/-- DDRAM address of row 0, ROW0_BASE (00_scope.md R7). -/
def row0Base : Byte := 0x00

/-- DDRAM address of row 1, ROW1_BASE (00_scope.md R7). -/
def row1Base : Byte := 0x40

/-! ## Class and floor -/

/-- The classes of instruction bytes (30_encoding.md R75). -/
inductive ByteClass where
  | none
  | clearDisplay
  | returnHome
  | entryModeSet
  | displayControl
  | cursorDisplayShift
  | functionSet
  | setCgramAddress
  | setDdramAddress
deriving DecidableEq, Repr

/-- `class(b)`, by the highest set bit of `b` (30_encoding.md R75). -/
def byteClass (b : Byte) : ByteClass :=
  if b.getLsbD 7 then .setDdramAddress
  else if b.getLsbD 6 then .setCgramAddress
  else if b.getLsbD 5 then .functionSet
  else if b.getLsbD 4 then .cursorDisplayShift
  else if b.getLsbD 3 then .displayControl
  else if b.getLsbD 2 then .entryModeSet
  else if b.getLsbD 1 then .returnHome
  else if b.getLsbD 0 then .clearDisplay
  else .none

/-- `floor(rs, rw, b)`, the least settling wait after a transaction in ns (41_encoder.md R110). -/
def settlingFloor (c : Config) (rs rw : Level) (b : Byte) : Nat :=
  if rs = false ∧ rw = false ∧ b.toNat < 0x04 then c.tClear else c.tCmd

/-! ## Durations -/

/-- `W(d) = ceil(d / T_TICK) = (d + T_TICK − 1) div T_TICK` (40_transport.md R84). -/
def ticksOf (c : Config) (d : Nat) : Nat := (d + c.tTick - 1) / c.tTick

/-- PD in ns: `zext_32(PD) * 1000` (42_session_init.md R119). -/
def pdNs (pd : BitVec 16) : Nat := pd.toNat * 1000

/-! ## Data lines as seen by the block -/

/-- Whether an address of a memory has a cell (91_not_in_source.md N9; notes/assumptions/4.md). -/
def cellExists (c : Config) : Space → Nat → Bool
  | .ddram, a => c.ddramCells.getLsbD a
  | .cgram, a => c.cgramCells.getLsbD a

/-- The last address of a memory: 0x7F or 0x3F (20_memory.md R41). -/
def lastAddress : Space → Nat
  | .ddram => 0x7F
  | .cgram => 0x3F

/-- The address AC selects: 7 bits in DDRAM, 6 in CGRAM (20_memory.md R41; notes/assumptions/28.md). -/
def Controller.address (c : Controller) : Nat :=
  match c.space with
  | .ddram => c.ac.toNat
  | .cgram => c.ac.toNat % 64

/-- AC is at the last column of a display row, DDRAM 0x07 or 0x47 (20_memory.md R42). -/
abbrev Controller.atRowEnd (c : Controller) : Prop := c.space = .ddram ∧ (c.address = 0x07 ∨ c.address = 0x47)

/-- AC advances by one: in the entry mode INIT sets, before the last address of a memory and not at the end of a row
(20_memory.md R47; 93_implementation_defined.md U12, 91_not_in_source.md N11), or at the end of a row on a part that
counts on there, as 43_session_ops.md R147 has it (notes/assumptions/10.md). -/
abbrev Controller.advanceStated (cfg : Config) (c : Controller) : Prop :=
  c.modes.incDec = true ∧ c.modes.shift = false ∧ c.address < lastAddress c.space ∧
    (c.atRowEnd → cfg.acCountsPastRow = true)

end Sys2Proof.Machine
end

