-- ==== Sys2Proof/Machine/Flags.lean ====
section
/-! DEFINITION. The status bits, the pins and the response codes. The block has no condition codes and no
arithmetic flags (10_state.md R38); its only status bits are the three status outputs (R31) and the response
code (R30, 60_exceptions.md R155). -/

namespace Sys2Proof.Machine

open Sys2Proof

/-- Response code 0, OK (60_exceptions.md R155). -/
def rspOk : BitVec 2 := 0

/-- Response code 1, E_NOTREADY (60_exceptions.md R155, R156). -/
def rspNotReady : BitVec 2 := 1

/-- Response code 2, E_ILLEGAL (60_exceptions.md R155, R157). -/
def rspIllegal : BitVec 2 := 2

/-- Response code 3, reserved, never produced (60_exceptions.md R158). -/
def rspReserved : BitVec 2 := 3

/-- Status bit 0, REQ_READY: 1 iff SEQ = IDLE (10_state.md R31). -/
def State.reqReady (s : State) : Bool := s.seq == .idle

/-- Status bit 1, BUSY: 1 iff SEQ = RUN (10_state.md R31). -/
def State.busy (s : State) : Bool := s.seq == .run

/-- Status bit 2, SESSION_READY: 1 iff SESSION = READY (10_state.md R31). -/
def State.sessionReady (s : State) : Bool := s.session == .ready

/-- The three status outputs as one word (10_state.md R31). -/
def State.status (s : State) : BitVec 3 :=
  ((BitVec.ofBool s.sessionReady).setWidth 3 <<< 2) ||| ((BitVec.ofBool s.busy).setWidth 3 <<< 1) |||
    (BitVec.ofBool s.reqReady).setWidth 3

/-- The level the block drives on data line `i`; none while DIR = 0 (10_state.md R32). -/
def State.dataPin (s : State) (i : Nat) : Option Level :=
  match s.dir with
  | .output => some (s.dbO.getLsbD i)
  | .input => none

/-- The level the block drives on each of its 11 lines, in the order RS, RW, E, DB0 to DB7 (10_state.md R32). -/
def State.pins (s : State) : List (Option Level) :=
  [some s.rsO, some s.rwO, some s.eO] ++ (List.range 8).map fun i => s.dataPin i

/-- The physical lines with the levels the block drives on them, through PINMAP (10_state.md R32, R35). -/
def State.physicalLines (s : State) : List (Nat × Option Level) := s.cfg.pinMap.zip s.pins

/-- The response the requester can take in this tick: RSP_ERR and RSP_DATA while RSP_VALID = 1
(10_state.md R30, 70_reset_and_hazards.md R187). -/
def State.response (s : State) : Option (BitVec 2 × Byte) :=
  if s.rspValid then some (s.rspErr, s.rspData) else none

/-- Whether RST is asserted in this tick (70_reset_and_hazards.md R175). -/
def State.rst (s : State) : Bool :=
  match s.events with
  | [] => false
  | ev :: _ => ev.rst

/-- Whether the controller is power-cycled in this tick (70_reset_and_hazards.md R180). -/
def State.powerCycle (s : State) : Bool :=
  match s.events with
  | [] => false
  | ev :: _ => ev.powerCycle

/-- Whether a controller is attached, which latches words and needs its settling time (20_memory.md R43, R49). -/
def LineEnv.attached : LineEnv → Bool
  | .controller => true
  | .contract => true
  | .undriven => false
  | .loopback => false

/-- REQ_VALID with REQ and LB in this tick (42_session_init.md R115). -/
def State.presented (s : State) : Option Request :=
  match s.requester with
  | .present r :: _ => some r
  | _ => none

end Sys2Proof.Machine
end

