-- ==== Sys2Proof/Machine/Ops.lean ====
section
/-! DEFINITION. The named operations over the state: the controller's memories, what the controller does with a
word, the levels on the data lines, the passing of a tick, the reset action, and the three things that can
happen to a request: rejection (the block's only exception, 60_exceptions.md R155), start and completion. There
is no return from an exception (60_exceptions.md R163). -/

namespace Sys2Proof.Machine

open Sys2Proof

/-! ## Memories of the controller -/

/-- The known content of a cell, none for an address that is not listed. -/
def Memory.read : Memory → Nat → Option Byte
  | [], _ => none
  | (k, v) :: m, a => if k = a then some v else Memory.read m a

/-- The memory after a byte is stored, still in rising order of address. -/
def Memory.write : Memory → Nat → Byte → Memory
  | [], a, v => [(a, v)]
  | (k, w) :: m, a, v =>
    if a < k then (a, v) :: (k, w) :: m
    else if a = k then (a, v) :: m
    else (k, w) :: Memory.write m a v

/-- The canonical form: addresses strictly rising, all below `size`. No listed entry equals what an unlisted
address reads as, since that is no known content. -/
abbrev Memory.wf (size : Nat) (m : Memory) : Prop :=
  m.Pairwise (fun x y => x.1 < y.1) ∧ ∀ x ∈ m, x.1 < size

/-! ## The controller -/

/-- The memory of a space. -/
def Controller.cells (c : Controller) : Space → Memory
  | .ddram => c.ddram
  | .cgram => c.cgram

/-- The memory of a space is replaced. -/
def Controller.setCells (c : Controller) (sp : Space) (m : Memory) : Controller :=
  match sp with
  | .ddram => { c with ddram := m }
  | .cgram => { c with cgram := m }

/-- AC, the selected memory and both memories become unknown (20_memory.md R48: an effect on AC and on the
display that is not in the source). -/
def Controller.anyData (c : Controller) (n : Nat) : Controller :=
  { c with ac := freeAc n, space := freeSpace n, ddram := [], cgram := [] }

/-- Everything the controller holds becomes unknown (20_memory.md R48, R50: "any state"). -/
def Controller.anyState (c : Controller) (n : Nat) : Controller :=
  { c.anyData n with modes := freeModes n }

/-- Everything becomes unknown until the next INIT completes (93_implementation_defined.md U5, U9, U10). -/
def Controller.lost (c : Controller) (n : Nat) : Controller :=
  { c.anyState n with known := false, recent := [], poweredForInit := false }

/-- AC after a data access: AC + 1 where the spec states it (20_memory.md R47), any value elsewhere
(93_implementation_defined.md U12; notes/assumptions/10.md). -/
def Controller.advance (cfg : Config) (c : Controller) (n : Nat) : Controller :=
  if c.advanceStated cfg then { c with ac := BitVec.ofNat 7 (c.address + 1) } else { c with ac := freeAc n }

/-- A word that sets modes. With INIT's flags they are in force and the other modes stay, AC and the memories being
unknown; with other flags the state is "unknown (any state), never as a chosen value" (20_memory.md R48;
93_implementation_defined.md U11; notes/assumptions/8.md). -/
def Controller.modeWord (initFlags : Bool) (set : Modes → Modes) (c : Controller) (n : Nat) : Controller :=
  if initFlags then { c.anyData n with modes := set c.modes } else c.anyState n

/-- The byte is stored in the cell AC selects (20_memory.md R47). Where the address has no cell, what the write
reaches is unknown, and the memory's contents with it (91_not_in_source.md N9; notes/assumptions/11.md). -/
def Controller.store (cfg : Config) (c : Controller) (b : Byte) : Controller :=
  if cellExists cfg c.space c.address then
    c.setCells c.space (Memory.write (c.cells c.space) c.address b)
  else c.setCells c.space []

/-- The modes after INIT: "8-bit bus, two display lines, display and cursor visible, address auto-increments on
write" (42_session_init.md R125), as the fields of 0x38, 0x0F and 0x06 (R127). -/
def initModes : Modes where
  incDec := true
  shift := false
  display := true
  cursor := true
  blink := true
  dl := true
  n := true
  f := false

/-- The words of the handshake, each with the time E is low before it (42_session_init.md R123). -/
def handshakeSteps (cfg : Config) : List (BitVec 10 × Nat) :=
  [(0x030, cfg.tPwr), (0x030, cfg.tWake1), (0x030, cfg.tInitShort), (0x038, cfg.tInitShort),
    (0x010, cfg.tInitShort), (0x00F, cfg.tInitShort), (0x006, cfg.tInitShort)]

/-- The last seven words, the word `w` with the time E was low before it among them. -/
def Controller.noted (w : BitVec 10) (c : Controller) : List (BitVec 10 × Nat) :=
  (c.recent ++ [(w, c.gap)]).drop (c.recent.length - 6)

/-- Whether the last words are those of the handshake, each after its wait (42_session_init.md R123). -/
def isHandshake (cfg : Config) (words : List (BitVec 10 × Nat)) : Bool :=
  words.length == 7 && (words.zip (handshakeSteps cfg)).all fun p => p.1.1 == p.2.1 && p.2.2 ≤ p.1.2

/-- INIT is accepted: whether the controller is powered by then is noted (70_reset_and_hazards.md R179;
notes/assumptions/7.md). -/
def Controller.beginInit (c : Controller) : Controller := { c with poweredForInit := decide (0 < c.up) }

/-- The controller recognises the handshake of an INIT by its words and waits, whatever came before them, if it has been
powered since that INIT was accepted (70_reset_and_hazards.md R179, R180); the seventh word leaves the modes known and
the contract in force (42_session_init.md R125, R126). DEDUCED from R125 and 93_implementation_defined.md U7; unsafe if a
part needs more than these words and waits (notes/assumptions/7.md, 30.md). -/
def Controller.handshake (cfg : Config) (w : BitVec 10) (c : Controller) : Controller :=
  if c.poweredForInit = true ∧ isHandshake cfg (c.noted w) = true then { c with known := true, modes := initModes, recent := c.noted w }
  else { c with recent := c.noted w }

/-- The controller executes a word it has latched or a read it has served: the word's effect where the contract is
in force, any state where it is not. -/
def State.latch (s : State) (w : BitVec 10) (effect : Nat → Controller → Controller) : State :=
  let c := if s.ctrl.known then effect s.draws s.ctrl else s.ctrl.anyState s.draws
  { s with ctrl := c.handshake s.cfg w, draws := s.draws + 1 }

/-- The controller meets a word whose effect no rule gives: any state until the next handshake
(93_implementation_defined.md U5; 30_encoding.md R73). -/
def State.latchUnknown (s : State) : State :=
  { s with ctrl := s.ctrl.lost s.draws, draws := s.draws + 1 }

/-! ## The data lines -/

/-- Whether the line changes reach the controller in time: T_TICK ≥ T_SETUP (00_scope.md R8,
70_reset_and_hazards.md R183; notes/assumptions/2.md). -/
def State.setupMet (s : State) : Bool := s.cfg.tSetup ≤ s.cfg.tTick

/-- The byte the contract gives for a read: the cell AC selects, during a data read (20_memory.md R44). -/
def State.drivenByController (s : State) : Option Byte :=
  if s.rsO && s.rwO && s.eO && s.setupMet && s.ctrl.known then
    Memory.read (s.ctrl.cells s.ctrl.space) s.ctrl.address
  else none

/-- The levels on the data lines, where a rule gives them: DB_O while DIR = 1 (10_state.md R28), else what the
environment sets (20_memory.md R44, 40_transport.md R94). -/
def State.dataLines (s : State) : Option Byte :=
  match s.dir with
  | .output => some s.dbO
  | .input =>
    match s.env with
    | .controller => none
    | .contract => s.drivenByController
    | .undriven => none
    | .loopback => some s.dbO

/-- DB_I: the levels on the data lines, a draw where no rule gives them (10_state.md R28, 20_memory.md R44). -/
def State.dbI (s : State) : Byte :=
  match s.dataLines with
  | some b => b
  | none => Config.freeByte s.draws

/-! ## The passing of a tick -/

/-- T_TICK ns pass for the controller; a power cycle leaves it in an arbitrary state, which only an INIT accepted
afterwards ends (20_memory.md R50, 70_reset_and_hazards.md R179, R180). DESIGN CHOICE where the spec is silent: the
settling time and the time since the last edge of E run on, so that a controller power-cycled while E is high still
takes the word at that pulse's falling edge, the pulse being measured from its rising edge; its state is unknown before
and after (notes/assumptions/30.md). -/
def Controller.elapse (cfg : Config) (powerCycle : Bool) (n : Nat) (c : Controller) : Controller :=
  let c := { c with up := c.up + cfg.tTick, sinceEdge := c.sinceEdge + cfg.tTick }
  if powerCycle then { c.lost n with up := 0, gap := 0 } else c

/-- The requester's list after a tick in which no request was taken: an idle tick is over, a request stays
presented (42_session_init.md R115, R122). -/
def dropIdle : List RequesterStep → List RequesterStep
  | .idle :: rest => rest
  | steps => steps

/-- The requester's list after its request was taken (42_session_init.md R115). -/
def dropRequest : List RequesterStep → List RequesterStep
  | .present _ :: rest => rest
  | steps => steps

/-- What every tick does before the block's own action: time passes, the inputs of this tick are used up, and
RSP_VALID falls (42_session_init.md R116: "unless set below in this tick"). -/
def State.beginTick (s : State) : State :=
  { s with
    rspValid := false
    ctrl := s.ctrl.elapse s.cfg s.powerCycle s.draws
    requester := dropIdle s.requester
    events := s.events.tail
    draws := if s.powerCycle then s.draws + 1 else s.draws }

/-- MQ is replaced (40_transport.md R83: `MQ <- tail(MQ)`). -/
def State.withMq (s : State) (ms : List MicroOp) : State := { s with mq := ms }

/-- TIMER is replaced (40_transport.md R83). -/
def State.withTimer (s : State) (n : BitVec 32) : State := { s with timer := n }

/-- The presented request has been taken. -/
def State.takeRequest (s : State) : State := { s with requester := dropRequest s.requester }

/-! ## Reset -/

/-- The controller's side of a reset: if E was high, it falls with the other lines changing, so the controller's
state is unknown, and the settling time it may need is the longest of the contract (70_reset_and_hazards.md R177;
notes/assumptions/17.md). -/
def Controller.cutPulse (cfg : Config) (e : Level) (n : Nat) (c : Controller) : Controller :=
  if e then { c.lost n with sinceEdge := 0, need := cfg.tClear } else c

/-- The reset action: every register takes its value of 10_state.md R36 (70_reset_and_hazards.md R176); the
controller is not reset. -/
def State.resetAction (s : State) : State :=
  { s with
    session := .uninit
    seq := .idle
    curOp := 0
    mq := []
    timer := 0
    rsO := false
    rwO := false
    eO := false
    dir := .output
    dbO := 0
    rdata := 0
    rspValid := false
    rspErr := 0
    rspData := 0
    ctrl := s.ctrl.cutPulse s.cfg s.eO s.draws
    draws := s.draws + 1 }

/-! ## Requests -/

/-- `raise e`: the rejection of a request, which changes the response registers and nothing else
(60_exceptions.md R155). -/
def State.raise (s : State) (e : BitVec 2) : State :=
  { s with rspValid := true, rspErr := e, rspData := 0 }

/-- `start(op, REQ, LB)` with the micro-program `mq` of the request (42_session_init.md R118). At the acceptance of INIT
it is noted whether the controller is powered (70_reset_and_hazards.md R179), which the block cannot see. -/
def State.start (s : State) (op : BitVec 4) (mq : List MicroOp) : State :=
  { s with
    curOp := op
    mq := mq
    seq := .run
    session := if op = 0x0 then .uninit else s.session
    ctrl := if op = 0x0 then s.ctrl.beginInit else s.ctrl }

/-- The acceptance check: E_ILLEGAL before E_NOTREADY, else the request starts (42_session_init.md R117,
60_exceptions.md R162). -/
def State.accept (s : State) (op : BitVec 4) (mq : List MicroOp) : State :=
  if 0xD ≤ op.toNat then s.raise rspIllegal
  else if op ≠ 0x0 ∧ s.session = .uninit then s.raise rspNotReady
  else s.start op mq

/-- `complete()` (42_session_init.md R120): READ_BYTE answers the sampled byte, INIT makes the session ready. -/
def State.complete (s : State) : State :=
  { s with
    seq := .idle
    rspValid := true
    rspErr := rspOk
    rspData := if s.curOp = 0x3 then s.rdata else 0
    session := if s.curOp = 0x0 then .ready else s.session }

end Sys2Proof.Machine
end

