-- ==== Sys2Proof/Machine/BusWords.lean ====
section
/-! DEFINITION. The meanings of the bus words: what the external controller does with each at the falling edge of
E (20_memory.md R43 to R48), as far as the environment contract gives it. `State.latch` applies an effect only where
the contract is in force; elsewhere the controller's state stays unknown. The block's side of a bus word is its
transaction (40_transport.md R88, R89), which the sequencer runs (notes/assumptions/5.md). -/

namespace Sys2Proof.Machine

open Sys2Proof

/-- Clear Display: AC ← 0, the display buffer cleared to an unknown value, and which memory AC then selects is not
in the source (20_memory.md R46; 93_implementation_defined.md U13). -/
def clearEffect (n : Nat) (c : Controller) : Controller :=
  { c with ac := 0, space := freeSpace n, ddram := [] }

/-- Return Home: AC ← 0, and which memory AC then selects is not in the source (20_memory.md R46). -/
def homeEffect (n : Nat) (c : Controller) : Controller := { c with ac := 0, space := freeSpace n }

/-- Entry Mode Set; INIT's flags are increment and no shift, 0x06 (20_memory.md R47, R48, 43_session_ops.md R141). -/
def entryEffect (incDec shift : Bool) (n : Nat) (c : Controller) : Controller :=
  c.modeWord (incDec && !shift) (fun m => { m with incDec := true, shift := false }) n

/-- Display Control; INIT's flags are all on, 0x0F (20_memory.md R48, 43_session_ops.md R142). -/
def displayEffect (display cursor blink : Bool) (n : Nat) (c : Controller) : Controller :=
  c.modeWord (display && cursor && blink) (fun m => { m with display := true, cursor := true, blink := true }) n

/-- Cursor/Display Shift: any state (20_memory.md R48; 93_implementation_defined.md U11). -/
def shiftEffect (n : Nat) (c : Controller) : Controller := c.anyState n

/-- Function Set; INIT's flags are 8-bit, two lines and 5×8 font, 0x38 (20_memory.md R48, 43_session_ops.md R144). With
DL = 0 the state is unknown until the next INIT (70_reset_and_hazards.md R189). -/
def funcsetEffect (dl nLines f : Bool) (n : Nat) (c : Controller) : Controller :=
  if dl then c.modeWord (nLines && !f) (fun m => { m with dl := true, n := true, f := false }) n else c.lost n

/-- Set CGRAM Address: AC ← the address, and data accesses go to CGRAM (20_memory.md R45). -/
def setCgramEffect (addr : BitVec 6) (c : Controller) : Controller :=
  { c with ac := addr.setWidth 7, space := .cgram }

/-- Set DDRAM Address: AC ← the address, and data accesses go to DDRAM (20_memory.md R45). -/
def setDdramEffect (addr : BitVec 7) (c : Controller) : Controller := { c with ac := addr, space := .ddram }

/-- The bus word of Clear Display (41_encoder.md R101, 20_memory.md R46). -/
def execClearDisplayI (s : State) : Host.Outcome State Fault Refusal :=
  .next (s.latch (busWord false false encClear) clearEffect)

/-- The bus word of Return Home (41_encoder.md R102, 20_memory.md R46). -/
def execReturnHomeI (s : State) : Host.Outcome State Fault Refusal :=
  .next (s.latch (busWord false false encHome) homeEffect)

/-- The bus word of Entry Mode Set (41_encoder.md R103, 20_memory.md R47, R48). -/
def execEntryModeSetI (incDec shift : Bool) (s : State) : Host.Outcome State Fault Refusal :=
  .next (s.latch (busWord false false (encEntry incDec shift)) (entryEffect incDec shift))

/-- The bus word of Display Control (41_encoder.md R104, 20_memory.md R48). -/
def execDisplayControlI (display cursor blink : Bool) (s : State) : Host.Outcome State Fault Refusal :=
  .next (s.latch (busWord false false (encDisplay display cursor blink)) (displayEffect display cursor blink))

/-- The bus word of Cursor/Display Shift (41_encoder.md R105, 20_memory.md R48). -/
def execCursorDisplayShiftI (shiftCursor dir : Bool) (s : State) : Host.Outcome State Fault Refusal :=
  .next (s.latch (busWord false false (encShift shiftCursor dir)) shiftEffect)

/-- The bus word of Function Set (41_encoder.md R106, 20_memory.md R48). -/
def execFunctionSetI (dl n f : Bool) (s : State) : Host.Outcome State Fault Refusal :=
  .next (s.latch (busWord false false (encFuncset dl n f)) (funcsetEffect dl n f))

/-- The bus word of Set CGRAM Address (41_encoder.md R107, 20_memory.md R45). -/
def execSetCgramAddressI (addr : BitVec 6) (s : State) : Host.Outcome State Fault Refusal :=
  .next (s.latch (busWord false false (encCgram (addr.setWidth 8))) fun _ c => setCgramEffect addr c)

/-- The bus word of Set DDRAM Address (41_encoder.md R108, 20_memory.md R45). -/
def execSetDdramAddressI (addr : BitVec 7) (s : State) : Host.Outcome State Fault Refusal :=
  .next (s.latch (busWord false false (encDdram (addr.setWidth 8))) fun _ c => setDdramEffect addr c)

/-- A data write: the byte is stored in the cell AC selects, then AC advances (20_memory.md R47). -/
def execDataWrite (data : Byte) (s : State) : Host.Outcome State Fault Refusal :=
  .next (s.latch (busWord true false data) fun n c => (c.store s.cfg data).advance s.cfg n)

/-- A data read: AC advances; the byte was driven and sampled while E was high (20_memory.md R44, R47). -/
def execDataRead (data : Byte) (s : State) : Host.Outcome State Fault Refusal :=
  .next (s.latch (busWord true true data) fun n c => c.advance s.cfg n)

end Sys2Proof.Machine
end

