-- ==== Sys2Proof/Machine/Transport.lean ====
section
/-! DEFINITION. The bus transport: the two transactions (40_transport.md R88, R89), waits (R85), and the form of
every micro-program, transactions each followed by a wait of at least its floor (42_session_init.md R118,
R119). -/

namespace Sys2Proof.Machine

open Sys2Proof

/-- A transaction: `BusWrite(rs, b)` or `BusRead()`; no other exists (40_transport.md R95). -/
inductive Transaction where
  | write (rs : Level) (b : Byte)
  | read
deriving DecidableEq, Repr

/-- `Wait(d)`: the micro-op WAIT(W(d)), or nothing (40_transport.md R85); well-formed
parameters make it fit (notes/assumptions/27.md). -/
def waitOps (c : Config) (d : Nat) : List MicroOp :=
  if ticksOf c d = 0 then [] else [.wait (BitVec.ofNat 32 (ticksOf c d))]

/-- `BusWrite(rs, b)` (40_transport.md R88). -/
def busWriteOps (c : Config) (rs : Level) (b : Byte) : List MicroOp :=
  ([.dirOut, .drive b, .setRs rs, .setRw false, .setE true] : List MicroOp) ++ waitOps c c.tEH ++
    ([.setE false] : List MicroOp)

/-- `BusRead()` (40_transport.md R89). -/
def busReadOps (c : Config) : List MicroOp :=
  ([.dirIn, .setRs true, .setRw true, .setE true] : List MicroOp) ++ waitOps c c.tEH ++
    ([.sample, .setE false] : List MicroOp)

/-- The micro-ops of a transaction. -/
def Transaction.ops (c : Config) : Transaction → List MicroOp
  | .write rs b => busWriteOps c rs b
  | .read => busReadOps c

/-- The floor of a transaction's bus word (41_encoder.md R110). -/
def Transaction.floor (c : Config) : Transaction → Nat
  | .write rs b => settlingFloor c rs false b
  | .read => settlingFloor c true true 0

/-- `X1 ++ Wait(w1) ++ … ++ Xk ++ Wait(wk)`: each transaction with the wait the source states after it, never less
than its floor (42_session_init.md R118), the last wait lengthened by PD (R119). -/
def program (c : Config) (pd : BitVec 16) : List (Transaction × Nat) → List MicroOp
  | [] => []
  | [(x, stated)] => x.ops c ++ waitOps c (max (max stated (x.floor c)) (pdNs pd))
  | (x, stated) :: rest => x.ops c ++ waitOps c (max stated (x.floor c)) ++ program c pd rest

/-- The micro-program of a request of one transaction, for which the source states no wait
(43_session_ops.md R135). -/
def single (c : Config) (pd : BitVec 16) (x : Transaction) : List MicroOp := program c pd [(x, 0)]

end Sys2Proof.Machine
end

