-- ==== Sys2Proof/Machine/Requests.lean ====
section
/-! DEFINITION. The meanings of the requests (42_session_init.md R123, 43_session_ops.md R135 to R148): what the
block does in the tick in which it accepts one. The acceptance check and the start are `State.accept`; the rest of
the request is its micro-program, which the sequencer runs. The caller is an idle block (R115). -/

namespace Sys2Proof.Machine

open Sys2Proof

/-- The transactions of INIT with their stated waits: the wake instruction three times, Function Set,
Cursor/Display Shift, Display Control, Entry Mode Set (42_session_init.md R123, R127). -/
def initTransactions (c : Config) : List (Transaction × Nat) :=
  [(.write false (encFuncset true false false), c.tWake1),
    (.write false (encFuncset true false false), c.tInitShort),
    (.write false (encFuncset true false false), c.tInitShort),
    (.write false (encFuncset true true false), c.tInitShort),
    (.write false (encShift false false), c.tInitShort),
    (.write false (encDisplay true true true), c.tInitShort),
    (.write false (encEntry true false), 0)]

/-- The micro-program of INIT: its prologue deasserts E and waits T_PWR (42_session_init.md R123). -/
def initProgram (c : Config) (pd : BitVec 16) : List MicroOp :=
  ([.setE false] : List MicroOp) ++ waitOps c c.tPwr ++ program c pd (initTransactions c)

/-- The transactions of WRITE_TWO_LINES with their stated waits (43_session_ops.md R147). -/
def lineTransactions (c : Config) (line1 line2 : List Byte) : List (Transaction × Nat) :=
  (.write false (encDdram row0Base), 0) :: line1.map (fun b => (.write true b, c.tData)) ++
    (.write false (encDdram row1Base), 0) :: line2.map (fun b => (.write true b, c.tData))

/-- INIT (42_session_init.md R123). -/
def execInit (pd : BitVec 16) (s : State) : Host.Outcome State Fault Refusal :=
  .next (s.accept 0x0 (initProgram s.cfg pd))

/-- COMMAND: `BusWrite(0, ARG)`, any byte unchanged (43_session_ops.md R136). -/
def execCommand (arg : Byte) (pd : BitVec 16) (s : State) : Host.Outcome State Fault Refusal :=
  .next (s.accept 0x1 (single s.cfg pd (.write false arg)))

/-- WRITE_BYTE: `BusWrite(1, ARG)` (43_session_ops.md R137). -/
def execWriteByte (arg : Byte) (pd : BitVec 16) (s : State) : Host.Outcome State Fault Refusal :=
  .next (s.accept 0x2 (single s.cfg pd (.write true arg)))

/-- READ_BYTE: `BusRead()` (43_session_ops.md R138). -/
def execReadByte (pd : BitVec 16) (s : State) : Host.Outcome State Fault Refusal :=
  .next (s.accept 0x3 (single s.cfg pd .read))

/-- CLEAR_DISPLAY (43_session_ops.md R139). -/
def execClearDisplay (pd : BitVec 16) (s : State) : Host.Outcome State Fault Refusal :=
  .next (s.accept 0x4 (single s.cfg pd (.write false encClear)))

/-- RETURN_HOME (43_session_ops.md R140). -/
def execReturnHome (pd : BitVec 16) (s : State) : Host.Outcome State Fault Refusal :=
  .next (s.accept 0x5 (single s.cfg pd (.write false encHome)))

/-- ENTRY_MODE_SET (43_session_ops.md R141). -/
def execEntryModeSet (incDec shift : Bool) (pd : BitVec 16) (s : State) : Host.Outcome State Fault Refusal :=
  .next (s.accept 0x6 (single s.cfg pd (.write false (encEntry incDec shift))))

/-- DISPLAY_ON_OFF (43_session_ops.md R142). -/
def execDisplayOnOff (display cursor blink : Bool) (pd : BitVec 16) (s : State) :
    Host.Outcome State Fault Refusal :=
  .next (s.accept 0x7 (single s.cfg pd (.write false (encDisplay display cursor blink))))

/-- CURSOR_DISPLAY_SHIFT (43_session_ops.md R143). -/
def execCursorDisplayShift (shiftCursor dir : Bool) (pd : BitVec 16) (s : State) :
    Host.Outcome State Fault Refusal :=
  .next (s.accept 0x8 (single s.cfg pd (.write false (encShift shiftCursor dir))))

/-- FUNCTION_SET (43_session_ops.md R144). -/
def execFunctionSet (dl n f : Bool) (pd : BitVec 16) (s : State) : Host.Outcome State Fault Refusal :=
  .next (s.accept 0x9 (single s.cfg pd (.write false (encFuncset dl n f))))

/-- SET_CGRAM_ADDRESS: the address is masked to 6 bits (43_session_ops.md R145). -/
def execSetCgramAddress (arg : Byte) (pd : BitVec 16) (s : State) : Host.Outcome State Fault Refusal :=
  .next (s.accept 0xA (single s.cfg pd (.write false (encCgram arg))))

/-- SET_DDRAM_ADDRESS: the address is masked to 7 bits (43_session_ops.md R146). -/
def execSetDdramAddress (arg : Byte) (pd : BitVec 16) (s : State) : Host.Outcome State Fault Refusal :=
  .next (s.accept 0xB (single s.cfg pd (.write false (encDdram arg))))

/-- WRITE_TWO_LINES (43_session_ops.md R147); lines of another length than 8 are refused
(93_implementation_defined.md U1). -/
def execWriteTwoLines (line1 line2 : List Byte) (pd : BitVec 16) (s : State) :
    Host.Outcome State Fault Refusal :=
  if line1.length = rowLen ∧ line2.length = rowLen then
    .next (s.accept 0xC (program s.cfg pd (lineTransactions s.cfg line1 line2)))
  else .refused .lineLength

/-- The reserved opcode 0xD: rejected with E_ILLEGAL (30_encoding.md R68, 60_exceptions.md R157). -/
def execReservedD (s : State) : Host.Outcome State Fault Refusal := .next (s.accept 0xD [])

/-- The reserved opcodes 0xE and 0xF: rejected with E_ILLEGAL (30_encoding.md R68, 60_exceptions.md R157). -/
def execReservedEF (odd : Bool) (s : State) : Host.Outcome State Fault Refusal :=
  .next (s.accept (if odd then 0xF else 0xE) [])

end Sys2Proof.Machine
end

