-- ==== Sys2Proof/Machine/Dispatch.lean ====
section
/-! DEFINITION. One arm per instruction, each a call of its meaning. -/

namespace Sys2Proof.Machine

open Sys2Proof

def exec (i : Instr) (s : State) : Host.Outcome State Fault Refusal :=
  match i with
  | .init pd => Sys2Proof.Machine.execInit pd s
  | .command arg pd => Sys2Proof.Machine.execCommand arg pd s
  | .writeByte arg pd => Sys2Proof.Machine.execWriteByte arg pd s
  | .readByte pd => Sys2Proof.Machine.execReadByte pd s
  | .clearDisplay pd => Sys2Proof.Machine.execClearDisplay pd s
  | .returnHome pd => Sys2Proof.Machine.execReturnHome pd s
  | .entryModeSet incDec shift pd => Sys2Proof.Machine.execEntryModeSet incDec shift pd s
  | .displayOnOff display cursor blink pd => Sys2Proof.Machine.execDisplayOnOff display cursor blink pd s
  | .cursorDisplayShift shiftCursor dir pd => Sys2Proof.Machine.execCursorDisplayShift shiftCursor dir pd s
  | .functionSet dl n f pd => Sys2Proof.Machine.execFunctionSet dl n f pd s
  | .setCgramAddress arg pd => Sys2Proof.Machine.execSetCgramAddress arg pd s
  | .setDdramAddress arg pd => Sys2Proof.Machine.execSetDdramAddress arg pd s
  | .writeTwoLines line1 line2 pd => Sys2Proof.Machine.execWriteTwoLines line1 line2 pd s
  | .reservedD => Sys2Proof.Machine.execReservedD s
  | .reservedEF odd => Sys2Proof.Machine.execReservedEF odd s
  | .clearDisplayI => Sys2Proof.Machine.execClearDisplayI s
  | .returnHomeI => Sys2Proof.Machine.execReturnHomeI s
  | .entryModeSetI incDec shift => Sys2Proof.Machine.execEntryModeSetI incDec shift s
  | .displayControlI display cursor blink => Sys2Proof.Machine.execDisplayControlI display cursor blink s
  | .cursorDisplayShiftI shiftCursor dir => Sys2Proof.Machine.execCursorDisplayShiftI shiftCursor dir s
  | .functionSetI dl n f => Sys2Proof.Machine.execFunctionSetI dl n f s
  | .setCgramAddressI addr => Sys2Proof.Machine.execSetCgramAddressI addr s
  | .setDdramAddressI addr => Sys2Proof.Machine.execSetDdramAddressI addr s
  | .dataWrite data => Sys2Proof.Machine.execDataWrite data s
  | .dataRead data => Sys2Proof.Machine.execDataRead data s

end Sys2Proof.Machine
end

