-- ==== Sys2Proof/Machine/Fetch.lean ====
section
/-! DEFINITION. One tick up to the instruction it runs (42_session_init.md R116): reset, then the sequencer, then
the presented request (60_exceptions.md R162). A tick runs an instruction in two cases: an idle block takes a
request, or a falling edge of E hands the attached controller a bus word. -/

namespace Sys2Proof.Machine

open Sys2Proof

/-- What a tick comes to. -/
inductive Fetched where
  /-- The tick is over. -/
  | done (s : State)
  /-- The tick runs this instruction on this state. -/
  | run (i : Instr) (s : State)
  /-- The tick stops the machine. -/
  | stop (r : Fault)
deriving DecidableEq, Repr

/-- Whether E has been high for at least T_EH and the lines were set up in time, so that the controller sees the
word (70_reset_and_hazards.md R182, R183; 60_exceptions.md R165; notes/assumptions/2.md, 24.md). -/
def State.pulseGood (s : State) : Bool := s.cfg.tEH ≤ s.ctrl.sinceEdge && s.setupMet

/-- The bus word on the lines at a falling edge of E (30_encoding.md R69): the byte of a read is the one
sampled; a write with undriven data lines has no known word (notes/assumptions/22.md). -/
def State.wordOnLines (s : State) : Option (BitVec 10) :=
  match s.rwO, s.dir with
  | true, _ => some (busWord s.rsO true s.rdata)
  | false, .output => some (busWord s.rsO false s.dbO)
  | false, .input => none

/-- The settling time after the word on the lines (20_memory.md R49). DESIGN CHOICE where the spec gives the controller
none (91_not_in_source.md N22): the block's floor of 41_encoder.md R110 for 0x00, 0x03 and a read, the longest where the
word is not known (notes/assumptions/16.md). -/
def State.neededAfterWord (s : State) : Nat :=
  match s.wordOnLines with
  | some w => settlingFloor s.cfg (busRs w) (busRw w) (busByte w)
  | none => max s.cfg.tClear s.cfg.tCmd

/-- E rises. The attached controller must have had its settling time (20_memory.md R49;
93_implementation_defined.md U3). -/
def riseE (s : State) : Fetched :=
  if s.env.attached = true ∧ s.ctrl.sinceEdge < s.ctrl.need then .stop .settlingViolated
  else .done { s with
    eO := true
    ctrl := { s.ctrl with gap := min s.ctrl.sinceEdge s.ctrl.up, sinceEdge := 0 } }

/-- The lines after E has fallen. -/
def State.loweredE (s : State) : State :=
  { s with eO := false, ctrl := { s.ctrl with sinceEdge := 0, need := s.neededAfterWord } }

/-- E falls: the attached controller takes the word on the lines (20_memory.md R43, R47); a
word of no rule leaves it unknown (notes/assumptions/23.md). -/
def fallE (s : State) : Fetched :=
  if s.env.attached then
    if s.pulseGood then
      match s.wordOnLines with
      | some w =>
        match decodeBus w with
        | .ok i => .run i s.loweredE
        | .error _ => .done s.loweredE.latchUnknown
      | none => .done s.loweredE.latchUnknown
    else .done s.loweredE.latchUnknown
  else .done s.loweredE

/-- SET_E(v): an edge only where the level changes (40_transport.md R81). -/
def setE (v : Level) (s : State) : Fetched :=
  match s.eO, v with
  | false, true => riseE s
  | true, false => fallE s
  | false, false => .done s
  | true, true => .done s

/-- The effect of a micro-op (40_transport.md R81). -/
def runMicroOp (m : MicroOp) (s : State) : Fetched :=
  match m with
  | .dirOut => .done { s with dir := .output }
  | .dirIn => .done { s with dir := .input }
  | .drive b => .done { s with dbO := b }
  | .setRs v => .done { s with rsO := v }
  | .setRw v => .done { s with rwO := v }
  | .setE v => setE v s
  | .sample => .done { s with rdata := s.dbI, draws := s.draws + 1 }
  | .wait n => .done (s.withTimer (n - 1))

/-- The sequencer tick (40_transport.md R83). -/
def sequencerTick (s : State) : Fetched :=
  if s.timer = 0 then
    match s.mq with
    | [] => .done s.complete
    | m :: rest => runMicroOp m (s.withMq rest)
  else .done (s.withTimer (s.timer - 1))

/-- A tick up to the instruction it runs (42_session_init.md R116, 60_exceptions.md R162). A request runs only while
SEQ = IDLE (notes/assumptions/26.md); RSP_ERR = 3 stops first (notes/assumptions/18.md). -/
def fetch (s : State) : Fetched :=
  if s.rspErr = rspReserved then .stop .reservedResponse
  else if s.rst then .done s.beginTick.resetAction
  else
    match s.seq with
    | .run => sequencerTick s.beginTick
    | .idle =>
      match s.presented with
      | some r => .run (decodeRequest r.req r.lb) s.beginTick.takeRequest
      | none => .done s.beginTick

/-- The state with a request placed where the next tick takes it: presented first, on an idle block, in a tick
without RST (notes/assumptions/14.md). -/
def State.withRequest (s : State) (r : Request) : State :=
  { s with seq := .idle, rspErr := 0, events := [], requester := .present r :: s.requester }

/-- The state with a bus word placed where the next tick hands it to the controller: on the lines, at the end of an
enable pulse of T_EH (notes/assumptions/5.md). -/
def State.withBusWord (s : State) (w : BitVec 10) : State :=
  { s with
    seq := .run
    mq := .setE false :: s.mq
    timer := 0
    rspErr := 0
    events := []
    env := if s.env.attached then s.env else .controller
    rsO := busRs w
    rwO := busRw w
    eO := true
    dir := if busRw w then .input else .output
    dbO := if busRw w then s.dbO else busByte w
    rdata := if busRw w then busByte w else s.rdata
    ctrl := { s.ctrl with sinceEdge := s.cfg.tEH } }

end Sys2Proof.Machine
end

