-- ==== Sys2Proof/Machine/Step.lean ====
section
/-! DEFINITION. One step: one tick of the block (42_session_init.md R116). -/

namespace Sys2Proof.Machine

open Sys2Proof

/-- One tick (00_scope.md R12; notes/assumptions/29.md): what `fetch` leaves to do is done. -/
def step (s : State) : Host.Outcome State Fault Refusal :=
  match fetch s with
  | .done t => .next t
  | .run i t => exec i t
  | .stop r => .fault r

/-- The state with an instruction stored where the next step takes it: a bus word on the lines at the end of its
pulse, or a request presented to an idle block, REQ in the low 32 bits and LB above them
(notes/assumptions/14.md, 20.md). -/
def State.withFetchWord (s : State) (nbits w : Nat) : State :=
  if isBusWidth nbits then s.withBusWord (BitVec.ofNat 10 (w % 2 ^ nbits))
  else s.withRequest ⟨BitVec.ofNat 32 (w % 2 ^ nbits), BitVec.ofNat 128 (w % 2 ^ nbits / 2 ^ 32)⟩

end Sys2Proof.Machine
end

