-- ==== Sys2Proof/Machine/Assembler.lean ====
section
/-! DEFINITION. The assembler of requests: one line of text to one request (30_encoding.md R76). Values outside an
operand's range are errors, never truncated: a flag other than 0 and 1 (93_implementation_defined.md U4), a line of
another length than 8 (U1), a byte above 255, a post-delay above 65535. -/

namespace Sys2Proof.Machine

open Sys2Proof

/-- The tokens of a line. -/
inductive Token where
  | name (cs : List Char)
  | num (n : Nat)
  | text (cs : List Char)
  | comma
  | equals
  | lbrack
  | rbrack
deriving DecidableEq, Repr

/-- Where the lexer stands: in a run of letters, digits and underscores (empty at a token's start), or in a
string; the characters read so far, the last first. -/
inductive LexState where
  | run (acc : List Char)
  | text (acc : List Char)
deriving DecidableEq, Repr

/-- Letters, digits and the underscore. -/
def isRunChar (c : Char) : Bool := c.isAlphanum || c == '_'

/-- The value of a digit in base 10 or 16. -/
def digitVal (base : Nat) (c : Char) : Option Nat :=
  let v :=
    if '0' ≤ c ∧ c ≤ '9' then some (c.toNat - '0'.toNat)
    else if 'a' ≤ c ∧ c ≤ 'f' then some (c.toNat - 'a'.toNat + 10)
    else if 'A' ≤ c ∧ c ≤ 'F' then some (c.toNat - 'A'.toNat + 10)
    else none
  v.filter (· < base)

/-- The value of digits, after `acc`. -/
def digitsVal (base acc : Nat) : List Char → Option Nat
  | [] => some acc
  | c :: cs =>
    match digitVal base c with
    | some d => digitsVal base (acc * base + d) cs
    | none => none

/-- The token of a run: a number if it begins with a digit (decimal, or hexadecimal after 0x), else a name. -/
def runToken (cs : List Char) : Option Token :=
  match cs with
  | [] => none
  | '0' :: 'x' :: c :: ds => (digitsVal 16 0 (c :: ds)).map .num
  | c :: ds => if c.isDigit then (digitsVal 10 0 (c :: ds)).map .num else some (.name (c :: ds))

/-- The token of the run read so far, if there is one, before the tokens that follow. -/
def flushRun (acc : List Char) (rest : Option (List Token)) : Option (List Token) :=
  match acc with
  | [] => rest
  | _ :: _ =>
    match runToken acc.reverse, rest with
    | some t, some ts => some (t :: ts)
    | _, _ => none

/-- The tokens of a line; `#` starts a comment (30_encoding.md R76). DESIGN CHOICE where the rule is silent: a `#` inside
a string is a character of the string and starts no comment (notes/assumptions/25.md). -/
def lex : LexState → List Char → Option (List Token)
  | .run acc, [] => flushRun acc (some [])
  | .text _, [] => none
  | .text acc, c :: cs =>
    if c = '"' then (lex (.run []) cs).map (.text acc.reverse :: ·) else lex (.text (c :: acc)) cs
  | .run acc, c :: cs =>
    if isRunChar c then lex (.run (c :: acc)) cs
    else if c = '#' then flushRun acc (some [])
    else if c = ' ' ∨ c = '\t' then flushRun acc (lex (.run []) cs)
    else if c = '"' then flushRun acc (lex (.text []) cs)
    else if c = ',' then flushRun acc ((lex (.run []) cs).map (.comma :: ·))
    else if c = '=' then flushRun acc ((lex (.run []) cs).map (.equals :: ·))
    else if c = '[' then flushRun acc ((lex (.run []) cs).map (.lbrack :: ·))
    else if c = ']' then flushRun acc ((lex (.run []) cs).map (.rbrack :: ·))
    else none

/-- The operands of a line. -/
inductive Operand where
  | num (n : Nat)
  | bytes (ns : List Nat)
  | text (cs : List Char)
deriving DecidableEq, Repr

/-- Where the parser of operands stands. -/
inductive ParseState where
  | first
  | next
  | after
  | item (acc : List Nat)
  | afterItem (acc : List Nat)
deriving DecidableEq, Repr

/-- The operands of a line, separated by commas. -/
def parseOperands : ParseState → List Token → Option (List Operand)
  | .first, [] => some []
  | .after, [] => some []
  | .first, .num n :: ts => (parseOperands .after ts).map (.num n :: ·)
  | .next, .num n :: ts => (parseOperands .after ts).map (.num n :: ·)
  | .first, .text cs :: ts => (parseOperands .after ts).map (.text cs :: ·)
  | .next, .text cs :: ts => (parseOperands .after ts).map (.text cs :: ·)
  | .first, .lbrack :: ts => parseOperands (.item []) ts
  | .next, .lbrack :: ts => parseOperands (.item []) ts
  | .item acc, .num n :: ts => parseOperands (.afterItem (n :: acc)) ts
  | .afterItem acc, .comma :: ts => parseOperands (.item acc) ts
  | .afterItem acc, .rbrack :: ts => (parseOperands .after ts).map (.bytes acc.reverse :: ·)
  | .after, .comma :: ts => parseOperands .next ts
  | _, _ => none

/-- The tokens without a final `, pd=N`, and N (default 0). -/
def splitPd (ts : List Token) : List Token × Nat :=
  match ts.reverse with
  | .num n :: .equals :: .name ['p', 'd'] :: .comma :: rest => (rest.reverse, n)
  | _ => (ts, 0)

/-- A flag: 0 or 1. -/
def flagOperand : Nat → Option Bool
  | 0 => some false
  | 1 => some true
  | _ => none

/-- A byte: 0 to 255. -/
def byteOperand (n : Nat) : Option Byte := if n < 256 then some (BitVec.ofNat 8 n) else none

/-- A post-delay: 0 to 65535 µs. -/
def pdOperand (n : Nat) : Option (BitVec 16) := if n < 65536 then some (BitVec.ofNat 16 n) else none

/-- A line of 8 bytes, or 8 characters standing for their ASCII codes (93_implementation_defined.md G11;
notes/assumptions/25.md). -/
def lineOperand (o : Operand) : Option (List Byte) :=
  let codes :=
    match o with
    | .num _ => none
    | .bytes ns => ns.mapM byteOperand
    | .text cs => cs.mapM fun (c : Char) => if c.toNat < 128 then some (BitVec.ofNat 8 c.toNat) else none
  codes.filter (·.length = rowLen)

/-- The request of an operation's name, its operands and its post-delay (30_encoding.md R76). The rule gives
write_two_lines two lists or two strings; DESIGN CHOICE where it is silent: one list and one string are accepted too, each
standing for its 8 bytes (notes/assumptions/25.md). -/
def requestOf (op : List Char) (os : List Operand) (pd : BitVec 16) : Option Instr :=
  match os with
  | [] =>
    if op = "initialize".toList then some (.init pd)
    else if op = "read_byte".toList then some (.readByte pd)
    else if op = "clear_display".toList then some (.clearDisplay pd)
    else if op = "return_home".toList then some (.returnHome pd)
    else none
  | [.num n] =>
    match byteOperand n with
    | none => none
    | some b =>
      if op = "command".toList then some (.command b pd)
      else if op = "write_byte".toList then some (.writeByte b pd)
      else if op = "set_cgram_address".toList then some (.setCgramAddress b pd)
      else if op = "set_ddram_address".toList then some (.setDdramAddress b pd)
      else none
  | [.num m, .num n] =>
    match flagOperand m, flagOperand n with
    | some f, some g =>
      if op = "entry_mode_set".toList then some (.entryModeSet f g pd)
      else if op = "cursor_or_display_shift".toList then some (.cursorDisplayShift f g pd)
      else none
    | _, _ => none
  | [.num m, .num n, .num k] =>
    match flagOperand m, flagOperand n, flagOperand k with
    | some f, some g, some h =>
      if op = "display_on_off".toList then some (.displayOnOff f g h pd)
      else if op = "function_set".toList then some (.functionSet f g h pd)
      else none
    | _, _, _ => none
  | [x, y] =>
    match lineOperand x, lineOperand y with
    | some l1, some l2 => if op = "write_two_lines".toList then some (.writeTwoLines l1 l2 pd) else none
    | _, _ => none
  | _ => none

/-- What a line of text stands for. -/
inductive Assembled where
  /-- A blank line or a comment. -/
  | blank
  | request (i : Instr)
  | malformed
deriving DecidableEq, Repr

/-- The assembler, one line (30_encoding.md R76). -/
def assemble (line : List Char) : Assembled :=
  match lex (.run []) line with
  | some [] => .blank
  | some (.name op :: ts) =>
    match parseOperands .first (splitPd ts).1, pdOperand (splitPd ts).2 with
    | some os, some pd =>
      match requestOf op os pd with
      | some i => .request i
      | none => .malformed
    | _, _ => .malformed
  | _ => .malformed

/-- REQ and LB of a line, by 30_encoding.md R61 to R66. -/
def assembleWord (line : List Char) : Option Code :=
  match assemble line with
  | .request i => some (encodeCode i)
  | _ => none

end Sys2Proof.Machine
end

