-- ==== Sys2Proof/Safety.lean ====
section
/-! DEFINITION. The terms claims are made in: well-formed parameters, what a micro-program does to the lines and when,
the invariant of the machine, and the observation of a run (42_session_init.md R130). -/

namespace Sys2Proof

open Sys2Proof.Machine

/-! ## Parameters -/

/-- A wait of `d` ns fits TIMER (00_scope.md R8, the constraint on TW). -/
abbrev Config.fits (c : Config) (d : Nat) : Prop := ticksOf c d < 2 ^ 32

/-- Parameters the spec allows: a time base not below T_SETUP (00_scope.md R8), waits that fit TIMER, a power-on wait
that covers every settling time (70_reset_and_hazards.md R177), an injective PINMAP of 11 lines (R8, 10_state.md R35),
and cells behind the 16 characters of the display (20_memory.md R42). -/
abbrev Config.wf (c : Config) : Prop :=
  0 < c.tTick ∧ c.tSetup ≤ c.tTick ∧
  (Config.fits c c.tEH ∧ Config.fits c c.tPwr ∧ Config.fits c c.tWake1 ∧ Config.fits c c.tInitShort ∧
    Config.fits c c.tData ∧ Config.fits c c.tClear ∧ Config.fits c c.tCmd ∧ Config.fits c 65535000) ∧
  (c.tClear ≤ c.tPwr ∧ c.tCmd ≤ c.tPwr) ∧
  (c.pinMap.length = 11 ∧ c.pinMap.Nodup) ∧
  (∀ k < 8, cellExists c .ddram k = true ∧ cellExists c .ddram (0x40 + k) = true)

end Sys2Proof

namespace Sys2Proof.Machine

open Sys2Proof

/-! ## What a micro-program does -/

/-- The number of ticks a micro-program takes: WAIT(n) takes n, every other micro-op one (10_state.md R22,
40_transport.md R83). -/
def ticksOfOps : List MicroOp → Nat
  | [] => 0
  | .wait n :: ms => n.toNat + ticksOfOps ms
  | .dirOut :: ms => 1 + ticksOfOps ms
  | .dirIn :: ms => 1 + ticksOfOps ms
  | .drive _ :: ms => 1 + ticksOfOps ms
  | .setRs _ :: ms => 1 + ticksOfOps ms
  | .setRw _ :: ms => 1 + ticksOfOps ms
  | .setE _ :: ms => 1 + ticksOfOps ms
  | .sample :: ms => 1 + ticksOfOps ms

/-- The ticks until a running request completes, its completion tick included. -/
def State.ticksLeft (s : State) : Nat := s.timer.toNat + ticksOfOps s.mq + 1

/-- The lines with the time since the last edge of E and the settling time of the last transaction. -/
structure LineView where
  rs : Level
  rw : Level
  e : Level
  dir : Dir
  db : Byte
  since : Nat
  need : Nat
deriving DecidableEq, Repr

/-- The lines at the tick in which the next micro-op runs. -/
def State.lineView (s : State) : LineView where
  rs := s.rsO
  rw := s.rwO
  e := s.eO
  dir := s.dir
  db := s.dbO
  since := s.ctrl.sinceEdge + s.timer.toNat * s.cfg.tTick
  need := s.ctrl.need

/-- A micro-program that meets the timing of the bus from the given lines on: E rises only after the settling time
(70_reset_and_hazards.md R181) and with the direction its RW level needs (R184, R185), stays high for T_EH (R182), and
RS, RW, DIR and the data lines change only while E is low (40_transport.md R92); every WAIT has a tick; at the end E is
low and the settling time is over. -/
def SafeOps (c : Config) : List MicroOp → LineView → Prop
  | [], v => v.e = false ∧ v.need ≤ v.since
  | .wait n :: ms, v => n ≠ 0 ∧ SafeOps c ms { v with since := v.since + n.toNat * c.tTick }
  | .dirOut :: ms, v => v.e = false ∧ SafeOps c ms { v with dir := .output, since := v.since + c.tTick }
  | .dirIn :: ms, v => v.e = false ∧ SafeOps c ms { v with dir := .input, since := v.since + c.tTick }
  | .drive b :: ms, v => v.e = false ∧ SafeOps c ms { v with db := b, since := v.since + c.tTick }
  | .setRs l :: ms, v => v.e = false ∧ SafeOps c ms { v with rs := l, since := v.since + c.tTick }
  | .setRw l :: ms, v => v.e = false ∧ SafeOps c ms { v with rw := l, since := v.since + c.tTick }
  | .sample :: ms, v => v.e = true ∧ v.rw = true ∧ SafeOps c ms { v with since := v.since + c.tTick }
  | .setE true :: ms, v =>
    v.e = false ∧ v.need ≤ v.since + c.tTick ∧ v.dir = (if v.rw then Dir.input else Dir.output) ∧
      SafeOps c ms { v with e := true, since := 0 }
  | .setE false :: ms, v =>
    if v.e then
      c.tEH ≤ v.since + c.tTick ∧
        SafeOps c ms { v with e := false, since := 0, need := settlingFloor c v.rs v.rw v.db }
    else SafeOps c ms { v with since := v.since + c.tTick }

/-- The bus words a micro-program puts on the lines, one for each falling edge of E, from the given levels on
(30_encoding.md R69); `none` stands for the byte of a read. -/
def wordsOfOps : List MicroOp → LineView → List (Level × Level × Option Byte)
  | [], _ => []
  | .wait _ :: ms, v => wordsOfOps ms v
  | .dirOut :: ms, v => wordsOfOps ms { v with dir := .output }
  | .dirIn :: ms, v => wordsOfOps ms { v with dir := .input }
  | .drive b :: ms, v => wordsOfOps ms { v with db := b }
  | .setRs l :: ms, v => wordsOfOps ms { v with rs := l }
  | .setRw l :: ms, v => wordsOfOps ms { v with rw := l }
  | .sample :: ms, v => wordsOfOps ms v
  | .setE true :: ms, v => wordsOfOps ms { v with e := true }
  | .setE false :: ms, v =>
    if v.e then (v.rs, v.rw, if v.rw then none else some v.db) :: wordsOfOps ms { v with e := false }
    else wordsOfOps ms v

/-! ## The block's registers -/

/-- The registers of the block, all of them (10_state.md R15). -/
structure Block where
  session : Session
  seq : Seq
  curOp : BitVec 4
  mq : List MicroOp
  timer : BitVec 32
  rsO : Level
  rwO : Level
  eO : Level
  dir : Dir
  dbO : Byte
  rdata : Byte
  rspValid : Bool
  rspErr : BitVec 2
  rspData : Byte
deriving DecidableEq, Repr

/-- The block's part of the state. -/
def State.block (s : State) : Block where
  session := s.session
  seq := s.seq
  curOp := s.curOp
  mq := s.mq
  timer := s.timer
  rsO := s.rsO
  rwO := s.rwO
  eO := s.eO
  dir := s.dir
  dbO := s.dbO
  rdata := s.rdata
  rspValid := s.rspValid
  rspErr := s.rspErr
  rspData := s.rspData

/-- The registers without the two that carry a byte read: all that must not depend on what the data lines carry
(60_exceptions.md R159). -/
def Block.withoutReads (b : Block) : Block := { b with rdata := 0, rspData := 0 }

/-- No reset comes in the ticks ahead (70_reset_and_hazards.md R175). -/
def State.noReset (s : State) : Prop := ∀ ev ∈ s.events, ev.rst = false

/-! ## The invariant -/

/-- What holds in every reachable state. -/
structure Inv (s : State) : Prop where
  /-- The parameters are well-formed. -/
  cfgWf : s.cfg.wf
  /-- RSP_ERR is never 3 (60_exceptions.md R158). -/
  rspLegal : s.rspErr ≠ rspReserved
  /-- CUR_OP is an opcode that is executed (30_encoding.md R63, R68). -/
  opLegal : s.curOp.toNat < 0xD
  /-- MQ holds at most 144 micro-ops (10_state.md R19). -/
  mqBound : s.mq.length ≤ 144
  /-- The controller's memories are in canonical form. -/
  memWf : Memory.wf 128 s.ctrl.ddram ∧ Memory.wf 64 s.ctrl.cgram
  /-- No settling time is longer than T_PWR. -/
  needBound : s.ctrl.need ≤ s.cfg.tPwr
  /-- While E is high, the block drives the data lines exactly when RW = 0 (40_transport.md R93). -/
  strobe : s.eO = true → s.dir = (if s.rwO then Dir.input else Dir.output)
  /-- An idle block has nothing left to do and E low; in READY the last settling time is over. -/
  idle : s.seq = .idle → s.mq = [] ∧ s.timer = 0 ∧ s.eO = false ∧
    (s.session = .ready → s.ctrl.need ≤ s.ctrl.sinceEdge)
  /-- A running block's micro-program meets the timing of the bus. -/
  running : s.seq = .run → SafeOps s.cfg s.mq s.lineView
  /-- The request that runs in UNINIT is INIT, and no other (42_session_init.md R121, 60_exceptions.md R156). -/
  session : s.seq = .run → (s.session = .uninit ↔ s.curOp = 0x0)

/-! ## Observation of a run -/

/-- `n` steps, or fewer if the machine stops: a run is safe if it does not stop. -/
abbrev runs (n : Nat) (s : State) : Host.Outcome State Fault Refusal := Sys2Proof.core.run n s

/-- The states of the first `n` ticks. -/
def statesOf : Nat → State → List State
  | 0, _ => []
  | n + 1, s =>
    match step s with
    | .next t => s :: statesOf n t
    | .fault _ => [s]
    | .refused _ => [s]

/-- The levels of one tick: RS_O, RW_O, E_O, DIR, DB_O (42_session_init.md R130). -/
def State.lines (s : State) : Level × Level × Level × Dir × Byte := (s.rsO, s.rwO, s.eO, s.dir, s.dbO)

/-- The line trace of `n` ticks (42_session_init.md R130). -/
def lineTrace (n : Nat) (s : State) : List (Level × Level × Level × Dir × Byte) :=
  (statesOf n s).map State.lines

/-- The responses of `n` ticks, each with the tick in which it is visible, the first of the `n` being tick 0: "(tick,
RSP_ERR, RSP_DATA)" (42_session_init.md R130). -/
def responses (n : Nat) (s : State) : List (Nat × BitVec 2 × Byte) :=
  (statesOf n s).zipIdx.filterMap fun p => p.1.response.map fun r => (p.2, r)

/-- What the controller latches at a falling edge of E. -/
inductive Latched where
  /-- The word of a write: RS and the byte. -/
  | word (rs : Level) (b : Byte)
  /-- The word, if any, is unknown (70_reset_and_hazards.md R177, 93_implementation_defined.md U9). -/
  | unknown
deriving DecidableEq, Repr

/-- What the controller latches if this tick ends a write pulse (20_memory.md R43): the word on the lines if the pulse is
long enough and the block drives them, unknown elsewhere and if a reset ends the pulse (70_reset_and_hazards.md R177). -/
def State.latchedWord (s : State) : Latched :=
  if s.rst = false ∧ s.beginTick.pulseGood = true ∧ s.dir = .output then .word s.rsO s.dbO else .unknown

/-- The words latched by the controller in `n` ticks: one for each falling edge of E with RW = 0 (20_memory.md R43,
42_session_init.md R130). At a falling edge that a reset makes, RW takes its reset value 0 together with E, so there the
entry is unknown for a read pulse too (70_reset_and_hazards.md R177; notes/assumptions/17.md). -/
def latchedWords : Nat → State → List Latched
  | 0, _ => []
  | n + 1, s =>
    match step s with
    | .next t =>
      if s.eO && !t.eO && !t.rwO then s.latchedWord :: latchedWords n t else latchedWords n t
    | .fault _ => []
    | .refused _ => []

/-- A run is over: SEQ = IDLE, MQ is empty, TIMER = 0 and the requester has no further request to present
(42_session_init.md R130). -/
abbrev State.runOver (s : State) : Prop :=
  s.seq = .idle ∧ s.mq = [] ∧ s.timer = 0 ∧ ∀ x ∈ s.requester, x = .idle

/-- The tick at which a run is over, the first such, if it is among the first `n` (42_session_init.md R130). -/
def runEnd (n : Nat) (s : State) : Option Nat := (statesOf n s).findIdx? fun u => decide u.runOver

/-- What is observed of a run (42_session_init.md R130). -/
structure Observation where
  lines : List (Level × Level × Level × Dir × Byte)
  responses : List (Nat × BitVec 2 × Byte)
  words : List Latched
deriving DecidableEq, Repr

/-- The observation of a run up to the tick at which it is over, that tick included, if it is among the first `n`:
nothing is said of the ticks after it (42_session_init.md R130). -/
def observe (n : Nat) (s : State) : Option Observation :=
  (runEnd n s).map fun k => ⟨lineTrace (k + 1) s, responses (k + 1) s, latchedWords (k + 1) s⟩

end Sys2Proof.Machine
end

