-- ==== Sys2Proof/Certificates/Slice0/Obligations.lean ====
section
/-! DEFINITION. The statements about the model, for the provers. Each docstring names the rules of the spec it formalises;
where a clause rests on the model's own choice it names the entry of the assumption log. -/

open Sys2Proof Sys2Proof.Machine

/-! ## Encoding -/

/-- Words written out from 30_encoding.md R61 to R63, R70 and the examples of 43_session_ops.md decode to the
instructions they stand for. -/
def Obligations.SampleWordsDecode : Prop :=
  decodeTableWord 10 0b0000000001 = some .clearDisplayI ∧
  decodeTableWord 10 0b0000000010 = some .returnHomeI ∧
  decodeTableWord 10 0b0000000110 = some (.entryModeSetI true false) ∧
  decodeTableWord 10 0b0000001100 = some (.displayControlI true false false) ∧
  decodeTableWord 10 0b0000010100 = some (.cursorDisplayShiftI false true) ∧
  decodeTableWord 10 0b0000111000 = some (.functionSetI true true false) ∧
  decodeTableWord 10 0b0001001000 = some (.setCgramAddressI 8) ∧
  decodeTableWord 10 0b0010000101 = some (.setDdramAddressI 5) ∧
  decodeTableWord 10 0b1001000001 = some (.dataWrite 0x41) ∧
  decodeTableWord 10 0b1101011010 = some (.dataRead 0x5A) ∧
  decodeTableWord 32 0x00000000 = some (.init 0) ∧
  decodeTableWord 32 0x07D00101 = some (.command 0x01 2000) ∧
  decodeTableWord 32 0x00004102 = some (.writeByte 0x41 0) ∧
  decodeTableWord 32 0x00000026 = some (.entryModeSet true false 0) ∧
  decodeTableWord 32 0x00000047 = some (.displayOnOff true false false 0) ∧
  decodeTableWord 32 0x00000069 = some (.functionSet true true false 0) ∧
  decodeTableWord 32 0x0000FF0A = some (.setCgramAddress 0xFF 0) ∧
  decodeTableWord 32 0x0000050B = some (.setDdramAddress 0x05 0) ∧
  decodeCode (.request 0x0000000C 0x202021444C524F572020204F4C4C4548) = .ok (.writeTwoLines
    [0x48, 0x45, 0x4C, 0x4C, 0x4F, 0x20, 0x20, 0x20] [0x57, 0x4F, 0x52, 0x4C, 0x44, 0x21, 0x20, 0x20] 0) ∧
  decodeTableWord 32 0x0000000D = some .reservedD ∧
  decodeTableWord 32 0x0000000E = some (.reservedEF false)

/-- Decoding the bytes of any well-formed instruction gives it back, with every operand (30_encoding.md R61, R62, R69,
R70). -/
def Obligations.DecodeOfEncode : Prop :=
  ∀ i : Instr, i.wf = true → decode (encode i) = .ok i

/-- A bus word has one meaning: the instruction decoded from it encodes to it again (30_encoding.md R70, R75,
41_encoder.md R112). -/
def Obligations.BusWordsEncodeBack : Prop :=
  ∀ (w : BitVec 10) (i : Instr), decodeBus w = .ok i → encodeCode i = .bus w

/-- 30_encoding.md R67: bit 7 of REQ changes nothing. -/
def Obligations.ReservedBitIgnored : Prop :=
  ∀ (s : State) (req : BitVec 32) (lb : BitVec 128),
    step (s.withRequest ⟨req ^^^ 0x80, lb⟩) = step (s.withRequest ⟨req, lb⟩)

/-- The fields a request does not use change nothing (30_encoding.md R62, R64, R65, R66): the step depends only on OP, and
where the request is executed (INIT, or any other OP below 0xD in READY) on PD and on the flags, the ARG and the LB the
request uses; a rejected request depends on OP alone. -/
def Obligations.UnusedFieldsIgnored : Prop :=
  ∀ (s : State) (r r' : Request),
    reqOp r.req = reqOp r'.req →
    (reqOp r.req = 0x0 → reqPd r.req = reqPd r'.req) →
    (s.session = .ready →
      ((reqOp r.req).toNat < 0xD → reqPd r.req = reqPd r'.req) ∧
      ((reqOp r.req).toNat ∈ [0x1, 0x2, 0xA, 0xB] → reqArg r.req = reqArg r'.req) ∧
      ((reqOp r.req).toNat ∈ [0x6, 0x7, 0x8, 0x9] →
        reqFlag r.req 0 = reqFlag r'.req 0 ∧ reqFlag r.req 1 = reqFlag r'.req 1) ∧
      ((reqOp r.req).toNat ∈ [0x7, 0x9] → reqFlag r.req 2 = reqFlag r'.req 2) ∧
      ((reqOp r.req).toNat = 0xC → r.lb = r'.lb)) →
    step (s.withRequest r) = step (s.withRequest r')

/-- The eight encoder functions give the bytes of the layout of 30_encoding.md R70, bit by bit from bit 7 down. -/
def Obligations.EncoderFollowsLayout : Prop :=
  encClear = 0b00000001#8 ∧ encHome = 0b00000010#8 ∧
  (∀ i s : Bool, encEntry i s = 0b000001#6 ++ BitVec.ofBool i ++ BitVec.ofBool s) ∧
  (∀ d c b : Bool, encDisplay d c b = 0b00001#5 ++ BitVec.ofBool d ++ BitVec.ofBool c ++ BitVec.ofBool b) ∧
  (∀ sc rl : Bool, encShift sc rl = 0b0001#4 ++ BitVec.ofBool sc ++ BitVec.ofBool rl ++ 0b00#2) ∧
  (∀ dl n f : Bool, encFuncset dl n f = 0b001#3 ++ BitVec.ofBool dl ++ BitVec.ofBool n ++ BitVec.ofBool f ++ 0b00#2) ∧
  (∀ a : Byte, encCgram a = 0b01#2 ++ a.extractLsb' 0 6) ∧
  (∀ a : Byte, encDdram a = 0b1#1 ++ a.extractLsb' 0 7)

/-- The byte alone tells which encoder function made it and from which inputs, an address up to the bits that are masked
off (41_encoder.md R112, 30_encoding.md R75). -/
def Obligations.EncoderImagesDisjoint : Prop :=
  byteClass encClear = .clearDisplay ∧ byteClass encHome = .returnHome ∧
  (∀ i s : Bool, byteClass (encEntry i s) = .entryModeSet) ∧
  (∀ d c b : Bool, byteClass (encDisplay d c b) = .displayControl) ∧
  (∀ sc rl : Bool, byteClass (encShift sc rl) = .cursorDisplayShift) ∧
  (∀ dl n f : Bool, byteClass (encFuncset dl n f) = .functionSet) ∧
  (∀ a : Byte, byteClass (encCgram a) = .setCgramAddress) ∧
  (∀ a : Byte, byteClass (encDdram a) = .setDdramAddress) ∧
  (∀ i s i' s' : Bool, encEntry i s = encEntry i' s' → i = i' ∧ s = s') ∧
  (∀ d c b d' c' b' : Bool, encDisplay d c b = encDisplay d' c' b' → d = d' ∧ c = c' ∧ b = b') ∧
  (∀ sc rl sc' rl' : Bool, encShift sc rl = encShift sc' rl' → sc = sc' ∧ rl = rl') ∧
  (∀ dl n f dl' n' f' : Bool, encFuncset dl n f = encFuncset dl' n' f' → dl = dl' ∧ n = n' ∧ f = f') ∧
  (∀ a a' : Byte, encCgram a = encCgram a' → a &&& 0x3F = a' &&& 0x3F) ∧
  (∀ a a' : Byte, encDdram a = encDdram a' → a &&& 0x7F = a' &&& 0x7F)

/-- Exactly the 38 bytes of 30_encoding.md R72 decode to no instruction, and no word with RS = 0, RW = 1 does (R73). -/
def Obligations.UnencodedBytes : Prop :=
  (∀ b : Byte, decodeBus (busWord false false b) = .error (.unencodedByte b) ↔
    b.toNat ∈ [0x00, 0x03, 0x11, 0x12, 0x13, 0x15, 0x16, 0x17, 0x19, 0x1A, 0x1B, 0x1D, 0x1E, 0x1F] ++
      [0x21, 0x22, 0x23, 0x25, 0x26, 0x27, 0x29, 0x2A, 0x2B, 0x2D, 0x2E, 0x2F] ++
      [0x31, 0x32, 0x33, 0x35, 0x36, 0x37, 0x39, 0x3A, 0x3B, 0x3D, 0x3E, 0x3F]) ∧
  (∀ b : Byte, decodeBus (busWord false true b) = .error .instructionRead)

/-- 41_encoder.md R110: the settling floor, by the class of the byte. -/
def Obligations.FloorByClass : Prop :=
  ∀ (c : Config) (b : Byte),
    settlingFloor c false false b =
      (if byteClass b = .none ∨ byteClass b = .clearDisplay ∨ byteClass b = .returnHome then c.tClear
       else c.tCmd) ∧
    settlingFloor c true false b = c.tCmd ∧ settlingFloor c true true b = c.tCmd

/-- 40_transport.md R84: W(d) ticks last at least d, and one tick fewer would not. -/
def Obligations.WaitMeetsMinimum : Prop :=
  ∀ (c : Config) (d : Nat), 0 < c.tTick →
    ticksOf c d = (d + c.tTick - 1) / c.tTick ∧ ticksOf c 0 = 0 ∧
    d ≤ ticksOf c d * c.tTick ∧ (0 < d → (ticksOf c d - 1) * c.tTick < d)

/-- The assembler (30_encoding.md R76): a line it accepts is a well-formed request, and its words decode to it; each of
the thirteen line forms assembles to its request, with every byte and post-delay in hexadecimal and every flag (for
`write_two_lines` one line of lists and one of strings, with decimal numbers and a comment); and a flag of 2, a byte of
256, a post-delay of 65536 and a string of 7 characters are errors. That a string stands for the ASCII codes of
its characters is notes/assumptions/25.md. -/
def Obligations.AssembledIsWellFormed : Prop :=
  (∀ (line : List Char) (i : Instr), assemble line = .request i →
    i.wf = true ∧ assembleWord line = some (encodeCode i) ∧ decodeCode (encodeCode i) = .ok i) ∧
  (∀ (b : Byte) (pd : BitVec 16) (f g h : Bool),
    let digit : Nat → Char := fun n => Nat.digitChar (n % 16)
    let byte : List Char := ['0', 'x', digit (b.toNat / 16), digit b.toNat]
    let delay : List Char :=
      ['0', 'x', digit (pd.toNat / 4096), digit (pd.toNat / 256), digit (pd.toNat / 16), digit pd.toNat]
    let flag : Bool → List Char := fun f => if f then ['1'] else ['0']
    ∀ q ∈ [(([] : List Char), (0 : BitVec 16)), (", pd=".toList ++ delay, pd)],
    ∀ p ∈ [("initialize".toList, Instr.init q.2), ("command ".toList ++ byte, .command b q.2),
        ("write_byte ".toList ++ byte, .writeByte b q.2), ("read_byte".toList, .readByte q.2),
        ("clear_display".toList, .clearDisplay q.2), ("return_home".toList, .returnHome q.2),
        ("entry_mode_set ".toList ++ flag f ++ ", ".toList ++ flag g, .entryModeSet f g q.2),
        ("display_on_off ".toList ++ flag f ++ ", ".toList ++ flag g ++ ", ".toList ++ flag h,
          .displayOnOff f g h q.2),
        ("cursor_or_display_shift ".toList ++ flag f ++ ", ".toList ++ flag g, .cursorDisplayShift f g q.2),
        ("function_set ".toList ++ flag f ++ ", ".toList ++ flag g ++ ", ".toList ++ flag h, .functionSet f g h q.2),
        ("set_cgram_address ".toList ++ byte, .setCgramAddress b q.2),
        ("set_ddram_address ".toList ++ byte, .setDdramAddress b q.2)],
      assemble (p.1 ++ q.1) = .request p.2) ∧
  assemble "write_two_lines [72,69,0x4C,0x4C,79,32,32,255], [0,1,2,3,4,5,6,7], pd=65535 # row 0, row 1".toList =
    .request (.writeTwoLines [0x48, 0x45, 0x4C, 0x4C, 0x4F, 0x20, 0x20, 0xFF] [0, 1, 2, 3, 4, 5, 6, 7] 0xFFFF) ∧
  assemble "write_two_lines \"HELLO   \", \"WORLD!  \"".toList = .request (.writeTwoLines
    [0x48, 0x45, 0x4C, 0x4C, 0x4F, 0x20, 0x20, 0x20] [0x57, 0x4F, 0x52, 0x4C, 0x44, 0x21, 0x20, 0x20] 0) ∧
  assemble "entry_mode_set 2, 0".toList = .malformed ∧ assemble "command 256".toList = .malformed ∧
  assemble "read_byte, pd=65536".toList = .malformed ∧
  assemble "write_two_lines \"HELLO  \", \"WORLD!  \"".toList = .malformed

/-! ## What a request does when it is taken -/

/-- COMMAND, WRITE_BYTE and the eight named instructions in READY (43_session_ops.md R136, R137, R139 to R146): the
request runs one write transaction (40_transport.md R88) and its final wait (42_session_init.md R119), and nothing else of
the state changes. -/
def Obligations.OneWriteRequestsRun : Prop :=
  ∀ (s : State) (pd : BitVec 16) (a : Byte) (f g h : Bool), s.session = .ready →
    let queue : Level → Byte → Nat → List MicroOp := fun rs b d =>
      ([.dirOut, .drive b, .setRs rs, .setRw false, .setE true] : List MicroOp) ++ waitOps s.cfg s.cfg.tEH ++ ([.setE false] : List MicroOp) ++
        waitOps s.cfg (max d (pd.toNat * 1000))
    exec (.command a pd) s = .next { s with
      seq := .run, curOp := 0x1, mq := queue false a (if a.toNat < 4 then s.cfg.tClear else s.cfg.tCmd) } ∧
    exec (.writeByte a pd) s = .next { s with seq := .run, curOp := 0x2, mq := queue true a s.cfg.tCmd } ∧
    exec (.clearDisplay pd) s = .next { s with seq := .run, curOp := 0x4, mq := queue false 0x01 s.cfg.tClear } ∧
    exec (.returnHome pd) s = .next { s with seq := .run, curOp := 0x5, mq := queue false 0x02 s.cfg.tClear } ∧
    exec (.entryModeSet f g pd) s = .next { s with
      seq := .run, curOp := 0x6,
      mq := queue false (0b000001#6 ++ BitVec.ofBool f ++ BitVec.ofBool g) s.cfg.tCmd } ∧
    exec (.displayOnOff f g h pd) s = .next { s with
      seq := .run, curOp := 0x7,
      mq := queue false (0b00001#5 ++ BitVec.ofBool f ++ BitVec.ofBool g ++ BitVec.ofBool h) s.cfg.tCmd } ∧
    exec (.cursorDisplayShift f g pd) s = .next { s with
      seq := .run, curOp := 0x8,
      mq := queue false (0b0001#4 ++ BitVec.ofBool f ++ BitVec.ofBool g ++ 0b00#2) s.cfg.tCmd } ∧
    exec (.functionSet f g h pd) s = .next { s with
      seq := .run, curOp := 0x9,
      mq := queue false (0b001#3 ++ BitVec.ofBool f ++ BitVec.ofBool g ++ BitVec.ofBool h ++ 0b00#2) s.cfg.tCmd } ∧
    exec (.setCgramAddress a pd) s = .next { s with
      seq := .run, curOp := 0xA, mq := queue false (0b01#2 ++ a.extractLsb' 0 6) s.cfg.tCmd } ∧
    exec (.setDdramAddress a pd) s = .next { s with
      seq := .run, curOp := 0xB, mq := queue false (0b1#1 ++ a.extractLsb' 0 7) s.cfg.tCmd }

/-- READ_BYTE in READY (43_session_ops.md R138, 40_transport.md R89): one read transaction and its final wait; nothing
else of the state changes. -/
def Obligations.ReadByteRuns : Prop :=
  ∀ (s : State) (pd : BitVec 16), s.session = .ready →
    exec (.readByte pd) s = .next { s with
      seq := .run, curOp := 0x3,
      mq := ([.dirIn, .setRs true, .setRw true, .setE true] : List MicroOp) ++ waitOps s.cfg s.cfg.tEH ++
        ([.sample, .setE false] : List MicroOp) ++ waitOps s.cfg (max s.cfg.tCmd (pd.toNat * 1000)) }

/-- INIT in either session state (42_session_init.md R118, R119, R123): SESSION becomes UNINIT and the whole handshake is
queued; nothing else of the block changes. That it is noted whether the controller is powered by then
(70_reset_and_hazards.md R179) is the model's way to carry that condition (notes/assumptions/7.md). -/
def Obligations.InitRuns : Prop :=
  ∀ (s : State) (pd : BitVec 16),
    let write : Byte → Nat → List MicroOp := fun b d =>
      ([.dirOut, .drive b, .setRs false, .setRw false, .setE true] : List MicroOp) ++ waitOps s.cfg s.cfg.tEH ++ ([.setE false] : List MicroOp) ++
        waitOps s.cfg d
    exec (.init pd) s = .next { s with
      session := .uninit, seq := .run, curOp := 0x0,
      ctrl := { s.ctrl with poweredForInit := decide (0 < s.ctrl.up) },
      mq := ([.setE false] : List MicroOp) ++ waitOps s.cfg s.cfg.tPwr ++
        write 0x30 (max s.cfg.tWake1 s.cfg.tCmd) ++ write 0x30 (max s.cfg.tInitShort s.cfg.tCmd) ++
        write 0x30 (max s.cfg.tInitShort s.cfg.tCmd) ++ write 0x38 (max s.cfg.tInitShort s.cfg.tCmd) ++
        write 0x10 (max s.cfg.tInitShort s.cfg.tCmd) ++ write 0x0F (max s.cfg.tInitShort s.cfg.tCmd) ++
        write 0x06 (max s.cfg.tCmd (pd.toNat * 1000)) }

/-- WRITE_TWO_LINES in READY (42_session_init.md R118, 43_session_ops.md R147): 0x80, the eight bytes of line 1, 0xC0, the
eight bytes of line 2, the last wait lengthened by PD; nothing else of the state changes. Lines of another length, which
no request word can express, are refused (93_implementation_defined.md U1; notes/assumptions/19.md). -/
def Obligations.WriteTwoLinesRuns : Prop :=
  ∀ (s : State) (pd : BitVec 16),
    let write : Level → Byte → Nat → List MicroOp := fun rs b d =>
      ([.dirOut, .drive b, .setRs rs, .setRw false, .setE true] : List MicroOp) ++ waitOps s.cfg s.cfg.tEH ++ ([.setE false] : List MicroOp) ++
        waitOps s.cfg d
    (∀ (line1 front : List Byte) (last : Byte), s.session = .ready → line1.length = 8 → front.length = 7 →
      exec (.writeTwoLines line1 (front ++ [last]) pd) s = .next { s with
        seq := .run, curOp := 0xC,
        mq := write false 0x80 s.cfg.tCmd ++
          line1.flatMap (fun b => write true b (max s.cfg.tData s.cfg.tCmd)) ++
          write false 0xC0 s.cfg.tCmd ++
          front.flatMap (fun b => write true b (max s.cfg.tData s.cfg.tCmd)) ++
          write true last (max (max s.cfg.tData s.cfg.tCmd) (pd.toNat * 1000)) }) ∧
    (∀ line1 line2 : List Byte, line1.length ≠ 8 ∨ line2.length ≠ 8 →
      exec (.writeTwoLines line1 line2 pd) s = .refused .lineLength)

/-- 30_encoding.md R77: each named instruction request runs the micro-program of COMMAND with the encoded byte; the line
trace, the responses and the observation of 42_session_init.md R130 are the same for every number of ticks. -/
def Obligations.NamedRequestsAreCommands : Prop :=
  ∀ (s : State) (pd : BitVec 16) (a : Byte) (f g h : Bool) (n : Nat), s.session = .ready →
    ∀ p ∈ [(Instr.clearDisplay pd, (0x01 : Byte)), (.returnHome pd, 0x02),
        (.entryModeSet f g pd, 0x04 ||| flagAt f 1 ||| flagAt g 0),
        (.displayOnOff f g h pd, 0x08 ||| flagAt f 2 ||| flagAt g 1 ||| flagAt h 0),
        (.cursorDisplayShift f g pd, 0x10 ||| flagAt f 3 ||| flagAt g 2),
        (.functionSet f g h pd, 0x20 ||| flagAt f 4 ||| flagAt g 3 ||| flagAt h 2),
        (.setCgramAddress a pd, 0x40 ||| (a &&& 0x3F)), (.setDdramAddress a pd, 0x80 ||| (a &&& 0x7F))],
      ∃ t u, exec p.1 s = .next t ∧ exec (.command p.2 pd) s = .next u ∧ t = { u with curOp := t.curOp } ∧
        lineTrace n t = lineTrace n u ∧ responses n t = responses n u ∧ observe n t = observe n u

/-- 60_exceptions.md R156: a request with OP 0x1 to 0xC taken in UNINIT is rejected with E_NOTREADY; apart from the inputs
used up and the time that passes, nothing but the response registers changes (R155). -/
def Obligations.RejectedBeforeInit : Prop :=
  ∀ (s : State) (r : Request) (rest : List RequesterStep),
    s.rspErr ≠ rspReserved → s.rst = false → s.seq = .idle → s.session = .uninit →
    s.requester = .present r :: rest → 1 ≤ (reqOp r.req).toNat → (reqOp r.req).toNat ≤ 0xC →
    step s = .next { s with
      rspValid := true, rspErr := 1, rspData := 0
      ctrl := s.ctrl.elapse s.cfg s.powerCycle s.draws
      requester := rest
      events := s.events.tail
      draws := if s.powerCycle then s.draws + 1 else s.draws }

/-- 60_exceptions.md R157: the reserved opcodes are rejected with E_ILLEGAL in either session state, and nothing but the
response registers changes (R155); so in UNINIT E_ILLEGAL comes before E_NOTREADY (R162). -/
def Obligations.ReservedRequestsRejected : Prop :=
  (∀ s : State, exec .reservedD s = .next { s with rspValid := true, rspErr := 2, rspData := 0 }) ∧
  (∀ (s : State) (odd : Bool),
    exec (.reservedEF odd) s = .next { s with rspValid := true, rspErr := 2, rspData := 0 }) ∧
  (∀ (s : State) (r : Request) (rest : List RequesterStep),
    s.rspErr ≠ rspReserved → s.rst = false → s.seq = .idle → s.requester = .present r :: rest →
    0xD ≤ (reqOp r.req).toNat →
    step s = .next { s with
      rspValid := true, rspErr := 2, rspData := 0
      ctrl := s.ctrl.elapse s.cfg s.powerCycle s.draws
      requester := rest
      events := s.events.tail
      draws := if s.powerCycle then s.draws + 1 else s.draws })

/-! ## The tick -/

/-- A tick of an idle block runs the presented request (42_session_init.md R115, R116); a tick of an idle block to which
nothing is presented only lets time pass and ends the response (70_reset_and_hazards.md R178: "the block does nothing
until a request is presented"). -/
def Obligations.StepRunsPresentedRequest : Prop :=
  (∀ (s : State) (r : Request) (rest : List RequesterStep),
    s.rspErr ≠ rspReserved → s.rst = false → s.seq = .idle → s.requester = .present r :: rest →
    step s = exec (decodeRequest r.req r.lb) { s with
      rspValid := false
      ctrl := s.ctrl.elapse s.cfg s.powerCycle s.draws
      requester := rest
      events := s.events.tail
      draws := if s.powerCycle then s.draws + 1 else s.draws }) ∧
  (∀ s : State, s.rspErr ≠ rspReserved → s.rst = false → s.seq = .idle → s.presented = none →
    step s = .next { s with
      rspValid := false
      ctrl := s.ctrl.elapse s.cfg s.powerCycle s.draws
      requester := s.requester.tail
      events := s.events.tail
      draws := if s.powerCycle then s.draws + 1 else s.draws })

/-- A tick in which E falls runs the bus word on the lines on the attached controller (20_memory.md R43, R47), after an
enable pulse of at least T_EH (70_reset_and_hazards.md R182) with the lines set up in time (R183). The model's choices: that
the controller runs the word in this same step (notes/assumptions/5.md); that the byte of a read's word is RDATA
(notes/assumptions/22.md); that a read needs T_CMD as its settling time, where 91_not_in_source.md N22 assumes nothing
(notes/assumptions/16.md); and, where the controller is power-cycled in this tick, that it still takes the word, with
the pulse measured from its rising edge (notes/assumptions/30.md). -/
def Obligations.StepRunsLatchedWord : Prop :=
  ∀ (s : State) (rest : List MicroOp) (w : BitVec 10) (i : Instr),
    s.rspErr ≠ rspReserved → s.rst = false → s.seq = .run → s.timer = 0 → s.mq = .setE false :: rest →
    s.eO = true → s.env.attached = true →
    s.cfg.tEH ≤ s.ctrl.sinceEdge + s.cfg.tTick → s.cfg.tSetup ≤ s.cfg.tTick →
    (s.rwO = true ∧ w = busWord s.rsO true s.rdata ∨
      s.rwO = false ∧ s.dir = .output ∧ w = busWord s.rsO false s.dbO) →
    decodeBus w = .ok i →
    step s = exec i { s with
      rspValid := false
      mq := rest
      eO := false
      ctrl := { s.ctrl.elapse s.cfg s.powerCycle s.draws with
        sinceEdge := 0, need := settlingFloor s.cfg (busRs w) (busRw w) (busByte w) }
      requester := dropIdle s.requester
      events := s.events.tail
      draws := if s.powerCycle then s.draws + 1 else s.draws }

/-- A falling edge of E at which the attached controller gets no word the spec gives a meaning leaves its state unknown
until the next INIT: a word that decodes to no instruction (the 38 bytes, 30_encoding.md R72,
93_implementation_defined.md U5; an instruction read, R73, by notes/assumptions/23.md), undriven data lines
(notes/assumptions/22.md), a pulse shorter than T_EH (notes/assumptions/24.md), and a time base below T_SETUP
(notes/assumptions/2.md). That U5 is the spec's and the other four are the model's deductions is said in those entries.
The block's registers change as at every falling edge. The settling time the controller then needs is the model's choice
where 20_memory.md R49 gives none: T_CLEAR after 0x00 and 0x03 and T_CMD after an instruction read, as the block's wait of
41_encoder.md R110 has them but 91_not_in_source.md N22 does not assume for the controller, and the word on the lines
counts after a short pulse and a late set-up too (notes/assumptions/16.md), and in a tick with a power cycle
(notes/assumptions/30.md). -/
def Obligations.UnseenWordLosesController : Prop :=
  ∀ (s : State) (rest : List MicroOp),
    s.rspErr ≠ rspReserved → s.rst = false → s.seq = .run → s.timer = 0 → s.mq = .setE false :: rest →
    s.eO = true → s.env.attached = true →
    (s.ctrl.sinceEdge + s.cfg.tTick < s.cfg.tEH ∨ s.cfg.tTick < s.cfg.tSetup ∨ (s.rwO = false ∧ s.dir = .input) ∨
      ∃ w e, decodeBus w = .error e ∧
        (s.rwO = true ∧ w = busWord s.rsO true s.rdata ∨
          s.rwO = false ∧ s.dir = .output ∧ w = busWord s.rsO false s.dbO)) →
    ∃ t, step s = .next t ∧
      t = { s with
        rspValid := false
        mq := rest
        eO := false
        ctrl := t.ctrl
        requester := dropIdle s.requester
        events := s.events.tail
        draws := t.draws } ∧
      t.ctrl.known = false ∧ t.ctrl.poweredForInit = false ∧ t.ctrl.recent = [] ∧ t.ctrl.ddram = [] ∧
      t.ctrl.cgram = [] ∧ t.ctrl.sinceEdge = 0 ∧
      (¬ (s.rwO = false ∧ s.dir = .input) →
        t.ctrl.need = settlingFloor s.cfg s.rsO s.rwO (if s.rwO then s.rdata else s.dbO))

/-- 40_transport.md R81, R83: a running block either counts a wait down, or completes, or runs the head of MQ and removes
it; the effect of each micro-op, which writes no other register of the block. -/
def Obligations.SequencerTick : Prop :=
  ∀ s : State, s.rspErr ≠ rspReserved → s.rst = false → s.seq = .run →
    (s.timer ≠ 0 → ∃ t, step s = .next t ∧ t.block = { s.block with rspValid := false, timer := s.timer - 1 }) ∧
    (s.timer = 0 → s.mq = [] → ∃ t, step s = .next t ∧ t.block = { s.block with
      seq := .idle, rspValid := true, rspErr := 0
      rspData := if s.curOp = 0x3 then s.rdata else 0
      session := if s.curOp = 0x0 then .ready else s.session }) ∧
    (∀ (m : MicroOp) (rest : List MicroOp) (t : State), s.timer = 0 → s.mq = m :: rest → step s = .next t →
      t.block =
        match m with
        | .dirOut => { s.block with rspValid := false, mq := rest, dir := .output }
        | .dirIn => { s.block with rspValid := false, mq := rest, dir := .input }
        | .drive b => { s.block with rspValid := false, mq := rest, dbO := b }
        | .setRs v => { s.block with rspValid := false, mq := rest, rsO := v }
        | .setRw v => { s.block with rspValid := false, mq := rest, rwO := v }
        | .setE v => { s.block with rspValid := false, mq := rest, eO := v }
        | .sample => { s.block with rspValid := false, mq := rest, rdata := s.beginTick.dbI }
        | .wait n => { s.block with rspValid := false, mq := rest, timer := n - 1 }) ∧
    (∀ (m : MicroOp) (rest : List MicroOp), s.timer = 0 → s.mq = m :: rest → (m = .setE true → s.env.attached = false) →
      ∃ t, step s = .next t)

/-- What a SAMPLE reads: DB_O while the block drives the lines (10_state.md R28), the byte last driven under a loopback
(40_transport.md R94). With a controller attached it is a draw, a new one each time (20_memory.md R44,
92_eei_decisions.md D28); where the environment takes the draw the contract gives (notes/assumptions/13.md), a data read
samples the cell AC selects, where its content is known (R44 [derived], R47; notes/assumptions/6.md). -/
def Obligations.SampleReadsLines : Prop :=
  ∀ (s : State) (rest : List MicroOp),
    s.rspErr ≠ rspReserved → s.rst = false → s.seq = .run → s.timer = 0 → s.mq = .sample :: rest →
    ∃ t, step s = .next t ∧
      (s.dir = .output → t.rdata = s.dbO) ∧
      (s.dir = .input → s.env = .loopback → t.rdata = s.dbO) ∧
      (s.dir = .input → s.env = .controller ∨ s.env = .undriven →
        t.rdata = Config.freeByte s.beginTick.draws ∧ t.draws = s.beginTick.draws + 1) ∧
      (∀ b, s.dir = .input → s.env = .contract → s.rsO = true → s.rwO = true → s.eO = true →
        s.cfg.tSetup ≤ s.cfg.tTick → s.powerCycle = false → s.ctrl.known = true →
        Memory.read (s.ctrl.cells s.ctrl.space) s.ctrl.address = some b → t.rdata = b)

/-- A request presented to a running block is neither taken nor rejected: it stays presented, and the only response is
that of the running request (42_session_init.md R115, R122). -/
def Obligations.BusyBlockHoldsRequest : Prop :=
  ∀ (s t : State) (r : Request), s.seq = .run → s.rst = false → s.presented = some r → step s = .next t →
    t.requester = s.requester ∧ t.presented = some r ∧ t.curOp = s.curOp ∧
    (t.rspValid = true ↔ s.timer = 0 ∧ s.mq = []) ∧ (t.rspValid = true → t.rspErr = 0 ∧ t.seq = .idle) ∧
    (t.rspValid = false → t.seq = .run)

/-- 42_session_init.md R120: the completion of a request, in the whole state. -/
def Obligations.CompletionAnswers : Prop :=
  ∀ s : State, s.rspErr ≠ rspReserved → s.rst = false → s.seq = .run → s.timer = 0 → s.mq = [] →
    step s = .next { s with
      seq := .idle, rspValid := true, rspErr := 0
      rspData := if s.curOp = 0x3 then s.rdata else 0
      session := if s.curOp = 0x0 then .ready else s.session
      ctrl := s.ctrl.elapse s.cfg s.powerCycle s.draws
      requester := dropIdle s.requester
      events := s.events.tail
      draws := if s.powerCycle then s.draws + 1 else s.draws }

/-- 42_session_init.md R121: every change of SESSION, in every step. -/
def Obligations.SessionTransitions : Prop :=
  ∀ s t : State, step s = .next t →
    t.session =
      if s.rst then .uninit
      else
        match s.seq, s.presented with
        | .idle, some r => if reqOp r.req = 0x0 then .uninit else s.session
        | .idle, none => s.session
        | .run, _ => if s.timer = 0 ∧ s.mq = [] ∧ s.curOp = 0x0 then .ready else s.session

/-- 10_state.md R30: RSP_VALID is 1 for the one tick after a completion or a rejection, RSP_ERR and RSP_DATA hold until
the next response, and RSP_DATA is the byte read for READ_BYTE and 0 otherwise. -/
def Obligations.ResponsePulse : Prop :=
  ∀ s t : State, step s = .next t →
    (t.rspValid = true ↔ s.rst = false ∧
      (s.seq = .run ∧ s.timer = 0 ∧ s.mq = [] ∨
       s.seq = .idle ∧ ∃ r, s.presented = some r ∧
         (0xD ≤ (reqOp r.req).toNat ∨ reqOp r.req ≠ 0x0 ∧ s.session = .uninit))) ∧
    (s.rst = false → t.rspValid = false → t.rspErr = s.rspErr ∧ t.rspData = s.rspData) ∧
    (t.rspValid = true → t.rspData = if s.seq = .run ∧ s.curOp = 0x3 then s.rdata else 0)

/-- 70_reset_and_hazards.md R176: a tick with RST gives every register its reset value, takes no request, and does not
reset the controller; after a reset with E high the controller's state is unknown (R177). -/
def Obligations.ResetTakesPriority : Prop :=
  ∀ s : State, s.rspErr ≠ rspReserved → s.rst = true →
    ∃ t, step s = .next t ∧
      t.block = {
        session := .uninit, seq := .idle, curOp := 0, mq := [], timer := 0, rsO := false, rwO := false, eO := false
        dir := .output, dbO := 0, rdata := 0, rspValid := false, rspErr := 0, rspData := 0 } ∧
      (∀ r, s.presented = some r → t.presented = some r) ∧
      (s.eO = false → t.ctrl = s.ctrl.elapse s.cfg s.powerCycle s.draws) ∧
      (s.eO = true → t.ctrl.known = false ∧ t.ctrl.ddram = [] ∧ t.ctrl.cgram = [])

/-- 10_state.md R36: the registers after reset; and R31: the three status outputs, for every state and after reset
(70_reset_and_hazards.md R178). -/
def Obligations.ResetStateRegisters : Prop :=
  State.reset.block = {
    session := .uninit, seq := .idle, curOp := 0, mq := [], timer := 0, rsO := false, rwO := false, eO := false
    dir := .output, dbO := 0, rdata := 0, rspValid := false, rspErr := 0, rspData := 0 } ∧
  State.reset.status = 0b001 ∧ State.reset.ctrl.known = false ∧
  (∀ s : State, (s.reqReady = true ↔ s.seq = .idle) ∧ (s.busy = true ↔ s.seq = .run) ∧
    (s.sessionReady = true ↔ s.session = .ready) ∧ s.status.getLsbD 0 = s.reqReady ∧ s.status.getLsbD 1 = s.busy ∧
    s.status.getLsbD 2 = s.sessionReady)

/-- 10_state.md R32: through PINMAP, each line carries its register, and a data line is driven exactly while DIR = 1. -/
def Obligations.PinLevels : Prop :=
  ∀ s : State, s.cfg.wf →
    (s.cfg.pinMap[0]?.bind (List.lookup · s.physicalLines) = some (some s.rsO)) ∧
    (s.cfg.pinMap[1]?.bind (List.lookup · s.physicalLines) = some (some s.rwO)) ∧
    (s.cfg.pinMap[2]?.bind (List.lookup · s.physicalLines) = some (some s.eO)) ∧
    (∀ i < 8, s.cfg.pinMap[3 + i]?.bind (List.lookup · s.physicalLines) =
      some (if s.dir = .output then some (s.dbO.getLsbD i) else none))

/-- No step changes the parameters or who drives the data lines (10_state.md R35; notes/assumptions/1.md, 13.md). -/
def Obligations.ConfigNeverChanges : Prop :=
  ∀ s t : State, step s = .next t → t.cfg = s.cfg ∧ t.env = s.env

/-- Response code 3 is never produced, and a state that has it is a fault of the model (60_exceptions.md R158). That the
fault comes in every tick of such a state, RST included, is the model's choice (notes/assumptions/18.md). -/
def Obligations.ReservedResponseStops : Prop :=
  (∀ s : State, s.rspErr = 3 → step s = .fault .reservedResponse) ∧
  (∀ s t : State, step s = .next t → t.rspErr ≠ 3)

/-- A pulse that starts before the attached controller's settling time has passed stops the machine (20_memory.md R49,
93_implementation_defined.md U3). That the time is counted from the last edge of E, and what it is where the spec gives
none, is the model's choice (notes/assumptions/16.md). -/
def Obligations.SettlingViolationStops : Prop :=
  ∀ (s : State) (rest : List MicroOp),
    s.rspErr ≠ rspReserved → s.rst = false → s.seq = .run → s.timer = 0 → s.mq = .setE true :: rest → s.eO = false →
    s.env.attached = true → s.ctrl.sinceEdge + s.cfg.tTick < s.ctrl.need → step s = .fault .settlingViolated

/-! ## The invariant -/

/-- Every step keeps the invariant (10_state.md R19; 42_session_init.md R118, R121; 70_reset_and_hazards.md R181, R182,
R185). -/
def Obligations.StepKeepsInv : Prop :=
  ∀ s t : State, Inv s → step s = .next t → Inv t

/-- The invariant holds after reset (10_state.md R36). It rests on the parameters the model chose
(notes/assumptions/1.md to 4.md). -/
def Obligations.InvAtReset : Prop := Inv State.reset

/-- From a state with the invariant no step stops: no timing violation, no failure after acceptance
(60_exceptions.md R159, R161, R165; 70_reset_and_hazards.md R181). -/
def Obligations.InvNeverStops : Prop :=
  ∀ s : State, Inv s → ∃ t, step s = .next t

/-- While E is high, and in the ticks in which it rises or falls, RS, RW, the direction and the data do not change
(40_transport.md R92), but for a reset. -/
def Obligations.LinesStableWhileStrobed : Prop :=
  ∀ s t : State, Inv s → step s = .next t → s.rst = false → (s.eO = true ∨ t.eO = true) →
    t.rsO = s.rsO ∧ t.rwO = s.rwO ∧ t.dir = s.dir ∧ t.dbO = s.dbO

/-- The time since the last edge of E is kept by every step, a power cycle included; that it is counted from that edge is
the model's choice (notes/assumptions/16.md, 30.md). E falls only after it was high for T_EH, but for a reset
(70_reset_and_hazards.md R182); the falling edge leaves the controller the settling time of the word on the lines
(20_memory.md R49), for 0x00, 0x03 and a read that of the block's wait, by the model's choice (41_encoder.md R110;
notes/assumptions/16.md). -/
def Obligations.StrobeWidth : Prop :=
  (∀ s t : State, step s = .next t →
    t.ctrl.sinceEdge = if t.eO = s.eO then s.ctrl.sinceEdge + s.cfg.tTick else 0) ∧
  (∀ s t : State, Inv s → step s = .next t → s.rst = false → s.eO = true → t.eO = false →
    s.cfg.tEH ≤ s.ctrl.sinceEdge + s.cfg.tTick ∧ t.ctrl.need = settlingFloor s.cfg s.rsO s.rwO s.dbO)

/-- E rises only after the settling time of the last transaction (20_memory.md R49, 70_reset_and_hazards.md R181), with
the data lines in the direction its RW level needs (R184, R185). What that time is for 0x00, 0x03 and a read, and that it is
counted from the last edge of E, is the model's choice (notes/assumptions/16.md). -/
def Obligations.SettlingRespected : Prop :=
  ∀ s t : State, Inv s → step s = .next t → s.eO = false → t.eO = true →
    s.ctrl.need ≤ s.ctrl.sinceEdge + s.cfg.tTick ∧ t.dir = (if t.rwO then Dir.input else Dir.output)

/-- 70_reset_and_hazards.md R185: the block drives no data line while E = 1 and RW = 1. -/
def Obligations.NoContention : Prop :=
  ∀ s : State, Inv s → s.eO = true → s.rwO = true → ∀ i, s.dataPin i = none

/-! ## Whole requests -/

/-- 42_session_init.md R120: a running request completes after exactly the ticks its micro-program has left, with RSP_ERR = 0
and the byte read for READ_BYTE, and answers nothing before that, unless a reset comes (60_exceptions.md R159). -/
def Obligations.RequestCompletes : Prop :=
  ∀ s : State, Inv s → s.noReset → s.seq = .run →
    (∀ k, 0 < k → k < s.ticksLeft → ∃ u, runs k s = .next u ∧ u.seq = .run ∧ u.rspValid = false) ∧
    ∃ t, runs s.ticksLeft s = .next t ∧ t.seq = .idle ∧ t.rspValid = true ∧ t.rspErr = 0 ∧ t.curOp = s.curOp ∧
      t.rspData = (if s.curOp = 0x3 then t.rdata else 0) ∧
      t.session = if s.curOp = 0x0 then .ready else s.session

/-- The length of every request, the acceptance tick and the completion tick included (70_reset_and_hazards.md R191,
42_session_init.md R128), where the stated waits are not below T_CMD, as the source's are: INIT in either session state,
the other twelve in READY. -/
def Obligations.RequestLengths : Prop :=
  ∀ (s : State) (pd : BitVec 16) (a : Byte) (f g h : Bool) (line1 line2 : List Byte),
    s.cfg.wf → s.timer = 0 → s.cfg.tCmd ≤ s.cfg.tWake1 → s.cfg.tCmd ≤ s.cfg.tInitShort →
    s.cfg.tCmd ≤ s.cfg.tData → line1.length = 8 → line2.length = 8 →
    let w := ticksOf s.cfg
    let one : Nat → Nat := fun d => 8 + w s.cfg.tEH + w (max d (pd.toNat * 1000))
    (∃ t, exec (.init pd) s = .next t ∧ 1 + t.ticksLeft =
      3 + w s.cfg.tPwr + 7 * (6 + w s.cfg.tEH) + w s.cfg.tWake1 + 5 * w s.cfg.tInitShort +
        w (max s.cfg.tCmd (pd.toNat * 1000))) ∧
    (s.session = .ready →
      (∃ t, exec (.command a pd) s = .next t ∧
        1 + t.ticksLeft = one (if a.toNat < 4 then s.cfg.tClear else s.cfg.tCmd)) ∧
      (∀ i ∈ [Instr.writeByte a pd, .readByte pd, .entryModeSet f g pd, .displayOnOff f g h pd,
          .cursorDisplayShift f g pd, .functionSet f g h pd, .setCgramAddress a pd, .setDdramAddress a pd],
        ∃ t, exec i s = .next t ∧ 1 + t.ticksLeft = one s.cfg.tCmd) ∧
      (∀ i ∈ [Instr.clearDisplay pd, .returnHome pd],
        ∃ t, exec i s = .next t ∧ 1 + t.ticksLeft = one s.cfg.tClear) ∧
      (∃ t, exec (.writeTwoLines line1 line2 pd) s = .next t ∧ 1 + t.ticksLeft =
        2 + 18 * (6 + w s.cfg.tEH) + 2 * w s.cfg.tCmd + 15 * w s.cfg.tData +
          w (max s.cfg.tData (pd.toNat * 1000))))

/-- The lines during a transaction, tick by tick (40_transport.md R90, R91). -/
def Obligations.TransactionTraces : Prop :=
  (∀ (s : State) (rs : Level) (b : Byte) (rest : List MicroOp),
    Inv s → s.noReset → s.seq = .run → s.timer = 0 → s.mq = busWriteOps s.cfg rs b ++ rest →
    lineTrace (6 + ticksOf s.cfg s.cfg.tEH) s =
      [(s.rsO, s.rwO, false, s.dir, s.dbO), (s.rsO, s.rwO, false, .output, s.dbO), (s.rsO, s.rwO, false, .output, b),
        (rs, s.rwO, false, .output, b), (rs, false, false, .output, b)] ++
      List.replicate (ticksOf s.cfg s.cfg.tEH + 1) (rs, false, true, .output, b) ∧
    ∃ t, runs (6 + ticksOf s.cfg s.cfg.tEH) s = .next t ∧ t.lines = (rs, false, false, .output, b) ∧ t.mq = rest) ∧
  (∀ (s : State) (rest : List MicroOp),
    Inv s → s.noReset → s.seq = .run → s.timer = 0 → s.mq = busReadOps s.cfg ++ rest →
    lineTrace (6 + ticksOf s.cfg s.cfg.tEH) s =
      [(s.rsO, s.rwO, false, s.dir, s.dbO), (s.rsO, s.rwO, false, .input, s.dbO), (true, s.rwO, false, .input, s.dbO),
        (true, true, false, .input, s.dbO)] ++
      List.replicate (ticksOf s.cfg s.cfg.tEH + 2) (true, true, true, .input, s.dbO) ∧
    ∃ t, runs (6 + ticksOf s.cfg s.cfg.tEH) s = .next t ∧ t.lines = (true, true, false, .input, s.dbO) ∧ t.mq = rest)

/-- The words the controller latches until a request completes are the write words of its micro-program, in order
(20_memory.md R43, R56, 42_session_init.md R130). A reset in an enable pulse adds one entry, and its word is unknown
(70_reset_and_hazards.md R177; for a read pulse notes/assumptions/17.md). -/
def Obligations.LatchedWordsAreTheProgram : Prop :=
  (∀ s : State, Inv s → s.noReset → s.seq = .run →
    latchedWords s.ticksLeft s =
      (wordsOfOps s.mq s.lineView).filterMap fun p =>
        if p.2.1 then none else p.2.2.map fun b => Latched.word p.1 b) ∧
  (∀ (s : State) (n : Nat), s.rspErr ≠ rspReserved → s.eO = true → s.rst = true →
    ∃ t, step s = .next t ∧ latchedWords (n + 1) s = .unknown :: latchedWords n t)

/-- 42_session_init.md R126: whatever the state of the block and of the controller, INIT sends 0x30 exactly three times,
then 0x38, then 0x10, 0x0F and 0x06 (R123). -/
def Obligations.InitWords : Prop :=
  ∀ (s : State) (pd : BitVec 16), Inv s → s.seq = .idle →
    ∃ t, exec (.init pd) s = .next t ∧ wordsOfOps t.mq t.lineView =
      [(false, false, some 0x30), (false, false, some 0x30), (false, false, some 0x30), (false, false, some 0x38),
        (false, false, some 0x10), (false, false, some 0x0F), (false, false, some 0x06)]

/-- 43_session_ops.md R148: WRITE_TWO_LINES performs exactly 18 transactions in order. -/
def Obligations.WriteTwoLinesWords : Prop :=
  ∀ (s : State) (pd : BitVec 16) (line1 line2 : List Byte), Inv s → s.seq = .idle → s.session = .ready →
    line1.length = 8 → line2.length = 8 →
    ∃ t, exec (.writeTwoLines line1 line2 pd) s = .next t ∧
      wordsOfOps t.mq t.lineView =
        (false, false, some 0x80) :: line1.map (fun b => (true, false, some b)) ++
          (false, false, some 0xC0) :: line2.map (fun b => (true, false, some b)) ∧
      (wordsOfOps t.mq t.lineView).length = 18

/-- The block after INIT (42_session_init.md R125). -/
def Obligations.InitEndState : Prop :=
  ∀ (s : State) (pd : BitVec 16), Inv s → s.noReset → s.seq = .idle →
    ∃ t u, exec (.init pd) s = .next t ∧ runs t.ticksLeft t = .next u ∧
      u.block = {
        session := .ready, seq := .idle, curOp := 0, mq := [], timer := 0, rsO := false, rwO := false, eO := false
        dir := .output, dbO := 0x06, rdata := s.rdata, rspValid := true, rspErr := 0, rspData := 0 }

/-- After INIT an attached controller that was powered when it was accepted (70_reset_and_hazards.md R179) is in the state
of 42_session_init.md R125 whatever it was before: 8-bit bus, two lines, display and cursor on, increment. That its state
is known once these words and waits have come is the model's reading (notes/assumptions/7.md). -/
def Obligations.InitWakesController : Prop :=
  ∀ (s : State) (pd : BitVec 16), Inv s → s.events = [] → s.seq = .idle → s.env.attached = true → 0 < s.ctrl.up →
    ∃ t u, exec (.init pd) s = .next t ∧ runs t.ticksLeft t = .next u ∧ u.ctrl.known = true ∧
      u.ctrl.modes = {
        incDec := true, shift := false, display := true, cursor := true, blink := true, dl := true, n := true
        f := false }

/-- 40_transport.md R94: with a loopback data register, a write followed by a read returns the byte written, for an
instruction byte and for a data byte. -/
def Obligations.LoopbackRoundTrip : Prop :=
  ∀ (s : State) (b : Byte) (pd pd' : BitVec 16), Inv s → s.noReset → s.seq = .idle → s.session = .ready →
    s.env = .loopback →
    ∀ i ∈ [Instr.command b pd, .writeByte b pd],
      ∃ t u v w, exec i s = .next t ∧ runs t.ticksLeft t = .next u ∧ exec (.readByte pd') u = .next v ∧
        runs v.ticksLeft v = .next w ∧ w.response = some (0, b)

/-- The effect of WRITE_TWO_LINES on a controller in the state INIT leaves (43_session_ops.md R147): the rows hold the two
lines, DDRAM is selected, and no other cell has changed. AC is 0x48, as R147 has it, on a part whose AC counts on past the
end of a row, and on any other part the free value drawn by the last of the 18 words (93_implementation_defined.md U12;
notes/assumptions/10.md). That the modes are unchanged is the model's deduction (notes/assumptions/9.md). -/
def Obligations.WriteTwoLinesFillsRows : Prop :=
  ∀ (s : State) (pd : BitVec 16) (line1 line2 : List Byte), Inv s → s.events = [] → s.seq = .idle →
    s.session = .ready → s.env.attached = true → s.ctrl.known = true → s.ctrl.modes.incDec = true →
    s.ctrl.modes.shift = false → line1.length = 8 → line2.length = 8 →
    ∃ t u, exec (.writeTwoLines line1 line2 pd) s = .next t ∧ runs t.ticksLeft t = .next u ∧
      (∀ k < 8, Memory.read u.ctrl.ddram k = line1[k]? ∧ Memory.read u.ctrl.ddram (0x40 + k) = line2[k]?) ∧
      (∀ a, ¬ a < 8 → ¬ (0x40 ≤ a ∧ a < 0x48) → Memory.read u.ctrl.ddram a = Memory.read s.ctrl.ddram a) ∧
      u.ctrl.cgram = s.ctrl.cgram ∧
      u.ctrl.ac = (if s.cfg.acCountsPastRow = true then 0x48 else freeAc (s.draws + 17)) ∧ u.ctrl.space = .ddram ∧ u.ctrl.modes = s.ctrl.modes

/-- The block cannot observe the controller: two machines with the same registers but for the byte read, the same
requests and the same resets have the same registers in every tick but for the byte read, whatever their controllers,
their data lines and the power cycles (60_exceptions.md R159, 70_reset_and_hazards.md R180). -/
def Obligations.BlockCannotSeeController : Prop :=
  ∀ (n : Nat) (s t : State), Inv s → Inv t → s.cfg = t.cfg → s.block.withoutReads = t.block.withoutReads →
    s.requester = t.requester → s.events.map TickEvent.rst = t.events.map TickEvent.rst →
    (statesOf n s).map (fun u => u.block.withoutReads) = (statesOf n t).map (fun u => u.block.withoutReads)

/-- A power cycle leaves nothing known of the controller, neither its modes nor a cell of either memory (20_memory.md R50,
70_reset_and_hazards.md R180), and it becomes known again only by an INIT that is accepted after it, in a tick in which
the controller is powered (R179): no step makes it known without such an INIT. How the condition is kept is
notes/assumptions/7.md. -/
def Obligations.PowerCycleNeedsInit : Prop :=
  (∀ s t : State, step s = .next t → s.powerCycle = true →
    t.ctrl.known = false ∧ t.ctrl.poweredForInit = false ∧ t.ctrl.ddram = [] ∧ t.ctrl.cgram = []) ∧
  (∀ s t : State, step s = .next t → t.ctrl.known = true → s.ctrl.known = true ∨ s.ctrl.poweredForInit = true) ∧
  (∀ s t : State, step s = .next t → t.ctrl.poweredForInit = true → s.ctrl.poweredForInit = true ∨
    s.rst = false ∧ s.seq = .idle ∧ s.powerCycle = false ∧ ∃ r, s.presented = some r ∧ reqOp r.req = 0x0)

/-! ## What the controller does with a bus word -/

/-- Every bus word runs in every state and changes the controller's contract state and the draws only
(20_memory.md R43 to R48): CLEAR_DISPLAY_I, RETURN_HOME_I, ENTRY_MODE_SET_I, DISPLAY_CONTROL_I, CURSOR_DISPLAY_SHIFT_I,
FUNCTION_SET_I, SET_CGRAM_ADDRESS_I, SET_DDRAM_ADDRESS_I, DATA_WRITE, DATA_READ. -/
def Obligations.BusWordsRun : Prop :=
  ∀ (i : Instr) (w : BitVec 10), encodeCode i = .bus w → ∀ s : State,
    ∃ c, exec i s = .next { s with ctrl := c, draws := s.draws + 1 } ∧
      c.up = s.ctrl.up ∧ c.sinceEdge = s.ctrl.sinceEdge ∧ c.gap = s.ctrl.gap ∧ c.need = s.ctrl.need

/-- A controller in an unknown state stays in one after any of the ten bus words, until the handshake of an INIT for which
it was powered is complete (20_memory.md R50, 70_reset_and_hazards.md R179, R189). How that is recognised is the model's
reading (notes/assumptions/7.md). -/
def Obligations.UnknownControllerStaysUnknown : Prop :=
  ∀ (i : Instr) (w : BitVec 10), encodeCode i = .bus w → ∀ s : State, s.ctrl.known = false →
    ∃ t, exec i s = .next t ∧ (t.ctrl.known = true ↔
        s.ctrl.poweredForInit = true ∧ isHandshake s.cfg (s.ctrl.noted w) = true) ∧
      (t.ctrl.known = true → w = 0x006 ∧ t.ctrl.modes = initModes) ∧ t.ctrl.ddram = [] ∧ t.ctrl.cgram = []

/-- Set DDRAM Address and Set CGRAM Address load AC and select the memory (20_memory.md R45). That nothing else changes,
the modes among it, is the model's deduction (notes/assumptions/9.md), and so is the 6-bit AC of CGRAM in the low bits of
the 7-bit register (notes/assumptions/28.md); the word is noted for the handshake (notes/assumptions/7.md). -/
def Obligations.SetAddressWords : Prop :=
  ∀ s : State, s.ctrl.known = true →
    (∀ a : BitVec 7, exec (.setDdramAddressI a) s = .next { s with
      ctrl := { s.ctrl with
        ac := a, space := .ddram, recent := s.ctrl.noted (busWord false false (encDdram (a.setWidth 8))) }
      draws := s.draws + 1 }) ∧
    (∀ a : BitVec 6, exec (.setCgramAddressI a) s = .next { s with
      ctrl := { s.ctrl with
        ac := a.setWidth 7, space := .cgram, recent := s.ctrl.noted (busWord false false (encCgram (a.setWidth 8))) }
      draws := s.draws + 1 })

/-- Clear Display and Return Home set AC to 0, and Clear Display leaves no cell of DDRAM with a known content; the memory
selected after them is open (20_memory.md R46). That nothing else changes is the model's reading
(notes/assumptions/9.md). -/
def Obligations.ClearHomeWords : Prop :=
  ∀ s : State, s.ctrl.known = true →
    (∃ sp, exec .clearDisplayI s = .next { s with
      ctrl := { s.ctrl with ac := 0, space := sp, ddram := [], recent := s.ctrl.noted 0x001 }
      draws := s.draws + 1 }) ∧
    (∃ sp, exec .returnHomeI s = .next { s with
      ctrl := { s.ctrl with ac := 0, space := sp, recent := s.ctrl.noted 0x002 }
      draws := s.draws + 1 })

/-- A data write stores the byte in the cell AC selects and no other, then AC advances by one in the entry mode INIT sets,
before the last address of a memory and not at the end of a row (20_memory.md R47); in another entry mode, at the last
address and at the end of a row it is a free value (93_implementation_defined.md U12), but at the end of a row on a part
whose AC counts on there (notes/assumptions/10.md). Model's choices: the modes unchanged (notes/assumptions/9.md); where
the address has no cell, the memory forgotten (notes/assumptions/11.md). -/
def Obligations.DataWriteWord : Prop :=
  ∀ (s : State) (b : Byte), s.ctrl.known = true →
    ∃ t, exec (.dataWrite b) s = .next t ∧
      t = { s with ctrl := t.ctrl, draws := s.draws + 1 } ∧
      t.ctrl = { s.ctrl with
        ac := t.ctrl.ac, ddram := t.ctrl.ddram, cgram := t.ctrl.cgram
        recent := s.ctrl.noted (busWord true false b) } ∧
      (∀ sp, sp ≠ s.ctrl.space → t.ctrl.cells sp = s.ctrl.cells sp) ∧
      (cellExists s.cfg s.ctrl.space s.ctrl.address = true → ∀ a, Memory.read (t.ctrl.cells s.ctrl.space) a =
        if a = s.ctrl.address then some b else Memory.read (s.ctrl.cells s.ctrl.space) a) ∧
      (cellExists s.cfg s.ctrl.space s.ctrl.address = false → t.ctrl.cells s.ctrl.space = []) ∧
      t.ctrl.ac =
        if s.ctrl.modes.incDec = true ∧ s.ctrl.modes.shift = false ∧
            (s.ctrl.space = .ddram ∧ s.ctrl.address < 0x7F ∧
                (s.ctrl.address ≠ 0x07 ∧ s.ctrl.address ≠ 0x47 ∨ s.cfg.acCountsPastRow = true) ∨
              s.ctrl.space = .cgram ∧ s.ctrl.address < 0x3F) then
          BitVec.ofNat 7 (s.ctrl.address + 1)
        else freeAc s.draws

/-- A data read changes no cell, and AC advances by one in the entry mode INIT sets, before the last address of a memory
and not at the end of a row (20_memory.md R47); elsewhere it is a free value (93_implementation_defined.md U12), but at
the end of a row on a part whose AC counts on there (notes/assumptions/10.md). That the modes are unchanged is the model's
deduction (notes/assumptions/9.md). -/
def Obligations.DataReadWord : Prop :=
  ∀ (s : State) (b : Byte), s.ctrl.known = true →
    exec (.dataRead b) s = .next { s with
      ctrl := { s.ctrl with
        recent := s.ctrl.noted (busWord true true b)
        ac :=
          if s.ctrl.modes.incDec = true ∧ s.ctrl.modes.shift = false ∧
              (s.ctrl.space = .ddram ∧ s.ctrl.address < 0x7F ∧
                  (s.ctrl.address ≠ 0x07 ∧ s.ctrl.address ≠ 0x47 ∨ s.cfg.acCountsPastRow = true) ∨
                s.ctrl.space = .cgram ∧ s.ctrl.address < 0x3F) then
            BitVec.ofNat 7 (s.ctrl.address + 1)
          else freeAc s.draws }
      draws := s.draws + 1 }

/-- Entry Mode Set, Display Control, Function Set with DL = 1 and Cursor/Display Shift, in the whole state. Each makes AC
and the selected memory free values and leaves no cell of either memory with a known content (20_memory.md R48). With
INIT's flags (0x06, 0x0F, 0x38) those are in force, as 42_session_init.md R125 names them; that the modes of the other two
words are then unchanged, but where the word completes the handshake (notes/assumptions/7.md), is notes/assumptions/8.md.
With any other flags, and after Cursor/Display Shift, every mode is a free value, the flags sent too (R48: "unknown
(any state), never as a chosen value"; 93_implementation_defined.md U11). That the contract stays in force after each of
the words is the model's choice (notes/assumptions/8.md). -/
def Obligations.ModeWords : Prop :=
  ∀ (s : State) (f g h : Bool), s.ctrl.known = true →
    let after : Byte → Modes → State := fun b m =>
      { s with
        ctrl := { s.ctrl with
          ac := freeAc s.draws, space := freeSpace s.draws, ddram := [], cgram := [], modes := m
          recent := s.ctrl.noted (busWord false false b) }
        draws := s.draws + 1 }
    exec (.entryModeSetI true false) s = .next (after 0x06
      (if s.ctrl.poweredForInit = true ∧ isHandshake s.cfg (s.ctrl.noted 0x006) = true then initModes
       else { s.ctrl.modes with incDec := true, shift := false })) ∧
    exec (.displayControlI true true true) s = .next (after 0x0F
      { s.ctrl.modes with display := true, cursor := true, blink := true }) ∧
    exec (.functionSetI true true false) s = .next (after 0x38
      { s.ctrl.modes with dl := true, n := true, f := false }) ∧
    (¬ (f = true ∧ g = false) → exec (.entryModeSetI f g) s = .next (after (encEntry f g) (freeModes s.draws))) ∧
    (¬ (f = true ∧ g = true ∧ h = true) →
      exec (.displayControlI f g h) s = .next (after (encDisplay f g h) (freeModes s.draws))) ∧
    (¬ (f = true ∧ g = false) →
      exec (.functionSetI true f g) s = .next (after (encFuncset true f g) (freeModes s.draws))) ∧
    exec (.cursorDisplayShiftI f g) s = .next (after (encShift f g) (freeModes s.draws))

/-- After a Function Set with DL = 0 the controller's state is unknown (70_reset_and_hazards.md R189). -/
def Obligations.FourBitModeIsUnknown : Prop :=
  ∀ (s : State) (n f : Bool), ∃ t, exec (.functionSetI false n f) s = .next t ∧ t.ctrl.known = false ∧
    t.ctrl.ddram = [] ∧ t.ctrl.cgram = []
end

