-- ==== Sys2Proof/Laws/Encoding.lean ====
section
/-! SUPPORT. What decoding reads of a packed word: one lemma per field (30_encoding.md R61, R62, R69). -/

namespace Sys2Proof

/-! ## Request word -/

@[simp] theorem reqOp_packReq (pd : BitVec 16) (arg : Byte) (f2 f1 f0 : Bool) (op : BitVec 4) :
    reqOp (packReq pd arg f2 f1 f0 op) = op := by
  ext i hi
  have : i = 0 ∨ i = 1 ∨ i = 2 ∨ i = 3 := by omega
  rcases this with rfl | rfl | rfl | rfl <;> simp [reqOp, packReq]

@[simp] theorem reqArg_packReq (pd : BitVec 16) (arg : Byte) (f2 f1 f0 : Bool) (op : BitVec 4) :
    reqArg (packReq pd arg f2 f1 f0 op) = arg := by
  ext i hi
  interval_cases i <;> simp [reqArg, packReq, BitVec.getLsbD_eq_getElem]

@[simp] theorem reqPd_packReq (pd : BitVec 16) (arg : Byte) (f2 f1 f0 : Bool) (op : BitVec 4) :
    reqPd (packReq pd arg f2 f1 f0 op) = pd := by
  ext i hi
  interval_cases i <;> simp [reqPd, packReq, BitVec.getLsbD_eq_getElem]

@[simp] theorem reqFlag0_packReq (pd : BitVec 16) (arg : Byte) (f2 f1 f0 : Bool) (op : BitVec 4) :
    reqFlag (packReq pd arg f2 f1 f0 op) 0 = f0 := by
  simp [reqFlag, packReq]

@[simp] theorem reqFlag1_packReq (pd : BitVec 16) (arg : Byte) (f2 f1 f0 : Bool) (op : BitVec 4) :
    reqFlag (packReq pd arg f2 f1 f0 op) 1 = f1 := by
  simp [reqFlag, packReq]

@[simp] theorem reqFlag2_packReq (pd : BitVec 16) (arg : Byte) (f2 f1 f0 : Bool) (op : BitVec 4) :
    reqFlag (packReq pd arg f2 f1 f0 op) 2 = f2 := by
  simp [reqFlag, packReq]

@[simp] theorem bit0_packReq (pd : BitVec 16) (arg : Byte) (f2 f1 f0 : Bool) (op : BitVec 4) :
    (packReq pd arg f2 f1 f0 op).getLsbD 0 = op.getLsbD 0 := by
  simp [packReq]

/-! ## Line operand -/

/-- Byte `k` of a packed line operand is byte `k` of the list (30_encoding.md R62). -/
theorem lbByte_packLb (bs : List Byte) (k : Nat) (h : k < bs.length) (h16 : bs.length ≤ 16) :
    lbByte (packLb bs) k = bs[k] := by
  induction bs generalizing k with
  | nil => simp at h
  | cons b bs ih =>
    simp only [List.length_cons] at h h16
    cases k with
    | zero =>
      ext i hi
      have h8 : i < 128 := by omega
      simp [lbByte, packLb, hi, h8, BitVec.getLsbD_eq_getElem]
    | succ k =>
      have ih' := ih k (by omega) (by omega)
      ext i hi
      have hbit := congrArg (fun v : Byte => v.getLsbD i) ih'
      have hk : 8 * (k + 1) + i - 8 = 8 * k + i := by omega
      have h8 : 8 * (k + 1) + i < 128 := by omega
      have h9 : ¬ 8 * (k + 1) + i < 8 := by omega
      simp only [lbByte, BitVec.getLsbD_extractLsb', hi, decide_true, Bool.true_and] at hbit
      simp only [lbByte, packLb, BitVec.getElem_extractLsb', BitVec.getLsbD_or, BitVec.getLsbD_shiftLeft, hk, h8, h9,
        BitVec.getLsbD_setWidth, decide_true, decide_false, Bool.not_false, Bool.true_and, hbit]
      have hb : b.getLsbD (8 * (k + 1) + i) = false := BitVec.getLsbD_of_ge b _ (by omega)
      simp [hb, BitVec.getLsbD_eq_getElem, hi]

/-! ## Bus word -/

@[simp] theorem busRs_busWord (rs rw : Level) (b : Byte) : busRs (busWord rs rw b) = rs := by
  simp [busRs, busWord]

@[simp] theorem busRw_busWord (rs rw : Level) (b : Byte) : busRw (busWord rs rw b) = rw := by
  simp [busRw, busWord]

@[simp] theorem busByte_busWord (rs rw : Level) (b : Byte) : busByte (busWord rs rw b) = b := by
  ext i hi
  interval_cases i <;> simp [busByte, busWord, BitVec.getLsbD_eq_getElem]

end Sys2Proof
end

