-- ==== Sys2Proof/Laws/Memory.lean ====
section
/-! SUPPORT. The laws of the controller's memories: a read after a write, and the canonical form. -/

namespace Sys2Proof.Machine

open Sys2Proof

theorem Memory.read_write_same (m : Memory) (a : Nat) (v : Byte) : Memory.read (Memory.write m a v) a = some v := by
  induction m with
  | nil => simp [Memory.write, Memory.read]
  | cons x m ih =>
    obtain ⟨k, w⟩ := x
    simp only [Memory.write]
    split
    · simp [Memory.read]
    · split
      · simp [Memory.read]
      · rename_i h1 h2
        have h3 : k ≠ a := fun h => h2 h.symm
        simp [Memory.read, h3, ih]

theorem Memory.read_write_other (m : Memory) (a b : Nat) (v : Byte) (h : b ≠ a) :
    Memory.read (Memory.write m a v) b = Memory.read m b := by
  have h' : a ≠ b := fun e => h e.symm
  induction m with
  | nil => simp [Memory.write, Memory.read, h']
  | cons x m ih =>
    obtain ⟨k, w⟩ := x
    simp only [Memory.write]
    split
    · simp [Memory.read, h']
    · split
      · rename_i h1 h2
        subst h2
        simp [Memory.read, h']
      · simp [Memory.read, ih]

/-- The cells of a memory after a write: the written one and old ones. -/
theorem Memory.mem_write (m : Memory) (a : Nat) (v : Byte) (x : Host.Cell) (h : x ∈ Memory.write m a v) :
    x = (a, v) ∨ x ∈ m := by
  induction m with
  | nil => simpa [Memory.write] using h
  | cons y m ih =>
    obtain ⟨k, w⟩ := y
    simp only [Memory.write] at h
    split at h
    · simpa using h
    · split at h
      · rcases List.mem_cons.1 h with h | h
        · exact .inl h
        · exact .inr (List.mem_cons_of_mem _ h)
      · rcases List.mem_cons.1 h with h | h
        · exact .inr (h ▸ List.mem_cons_self ..)
        · exact (ih h).imp_right (List.mem_cons_of_mem _)

/-- A write inside the memory keeps the canonical form. -/
theorem Memory.wf_write (size : Nat) (m : Memory) (a : Nat) (v : Byte) (ha : a < size) (h : Memory.wf size m) :
    Memory.wf size (Memory.write m a v) := by
  refine ⟨?_, fun x hx => ?_⟩
  · have hp := h.1
    induction m with
    | nil => simp [Memory.write]
    | cons y m ih =>
      obtain ⟨k, w⟩ := y
      obtain ⟨hk, hm⟩ := List.pairwise_cons.1 hp
      simp only [Memory.write]
      split
      · rename_i h1
        refine List.pairwise_cons.2 ⟨fun z hz => ?_, hp⟩
        rcases List.mem_cons.1 hz with rfl | hz
        · exact h1
        · exact Nat.lt_trans h1 (hk z hz)
      · split
        · rename_i h1 h2
          subst h2
          exact List.pairwise_cons.2 ⟨hk, hm⟩
        · rename_i h1 h2
          refine List.pairwise_cons.2 ⟨fun z hz => ?_, ih ⟨hm, fun x hx => h.2 x (List.mem_cons_of_mem _ hx)⟩ hm⟩
          rcases Memory.mem_write m a v z hz with rfl | hz
          · show k < a
            omega
          · exact hk z hz
  · rcases Memory.mem_write m a v x hx with rfl | hx
    · exact ha
    · exact h.2 x hx

/-- The empty memory is in canonical form. -/
theorem Memory.wf_nil (size : Nat) : Memory.wf size [] := ⟨List.Pairwise.nil, by simp⟩

end Sys2Proof.Machine
end

