-- ==== Sys2Proof/Laws/State.lean ====
section
/-! SUPPORT. One lemma per field of State and named update: what the update leaves in the field. All are true by
`rfl` and in the simp set, so that no proof unfolds an update. -/

namespace Sys2Proof.Machine

open Sys2Proof

/-! ## beginTick

What the start of a tick leaves of each field (42_session_init.md R116). -/

@[simp] theorem State.beginTick_cfg (s : State) : s.beginTick.cfg = s.cfg := rfl
@[simp] theorem State.beginTick_session (s : State) : s.beginTick.session = s.session := rfl
@[simp] theorem State.beginTick_seq (s : State) : s.beginTick.seq = s.seq := rfl
@[simp] theorem State.beginTick_curOp (s : State) : s.beginTick.curOp = s.curOp := rfl
@[simp] theorem State.beginTick_mq (s : State) : s.beginTick.mq = s.mq := rfl
@[simp] theorem State.beginTick_timer (s : State) : s.beginTick.timer = s.timer := rfl
@[simp] theorem State.beginTick_rsO (s : State) : s.beginTick.rsO = s.rsO := rfl
@[simp] theorem State.beginTick_rwO (s : State) : s.beginTick.rwO = s.rwO := rfl
@[simp] theorem State.beginTick_eO (s : State) : s.beginTick.eO = s.eO := rfl
@[simp] theorem State.beginTick_dir (s : State) : s.beginTick.dir = s.dir := rfl
@[simp] theorem State.beginTick_dbO (s : State) : s.beginTick.dbO = s.dbO := rfl
@[simp] theorem State.beginTick_rdata (s : State) : s.beginTick.rdata = s.rdata := rfl
@[simp] theorem State.beginTick_rspValid (s : State) : s.beginTick.rspValid = false := rfl
@[simp] theorem State.beginTick_rspErr (s : State) : s.beginTick.rspErr = s.rspErr := rfl
@[simp] theorem State.beginTick_rspData (s : State) : s.beginTick.rspData = s.rspData := rfl
@[simp] theorem State.beginTick_env (s : State) : s.beginTick.env = s.env := rfl
@[simp] theorem State.beginTick_ctrl (s : State) : s.beginTick.ctrl = s.ctrl.elapse s.cfg s.powerCycle s.draws := rfl
@[simp] theorem State.beginTick_requester (s : State) : s.beginTick.requester = dropIdle s.requester := rfl
@[simp] theorem State.beginTick_events (s : State) : s.beginTick.events = s.events.tail := rfl
@[simp] theorem State.beginTick_draws (s : State) : s.beginTick.draws = if s.powerCycle then s.draws + 1 else s.draws := rfl

/-! ## withMq

What a new MQ leaves of each field. -/

@[simp] theorem State.withMq_cfg (s : State) (ms : List MicroOp) : (s.withMq ms).cfg = s.cfg := rfl
@[simp] theorem State.withMq_session (s : State) (ms : List MicroOp) : (s.withMq ms).session = s.session := rfl
@[simp] theorem State.withMq_seq (s : State) (ms : List MicroOp) : (s.withMq ms).seq = s.seq := rfl
@[simp] theorem State.withMq_curOp (s : State) (ms : List MicroOp) : (s.withMq ms).curOp = s.curOp := rfl
@[simp] theorem State.withMq_mq (s : State) (ms : List MicroOp) : (s.withMq ms).mq = ms := rfl
@[simp] theorem State.withMq_timer (s : State) (ms : List MicroOp) : (s.withMq ms).timer = s.timer := rfl
@[simp] theorem State.withMq_rsO (s : State) (ms : List MicroOp) : (s.withMq ms).rsO = s.rsO := rfl
@[simp] theorem State.withMq_rwO (s : State) (ms : List MicroOp) : (s.withMq ms).rwO = s.rwO := rfl
@[simp] theorem State.withMq_eO (s : State) (ms : List MicroOp) : (s.withMq ms).eO = s.eO := rfl
@[simp] theorem State.withMq_dir (s : State) (ms : List MicroOp) : (s.withMq ms).dir = s.dir := rfl
@[simp] theorem State.withMq_dbO (s : State) (ms : List MicroOp) : (s.withMq ms).dbO = s.dbO := rfl
@[simp] theorem State.withMq_rdata (s : State) (ms : List MicroOp) : (s.withMq ms).rdata = s.rdata := rfl
@[simp] theorem State.withMq_rspValid (s : State) (ms : List MicroOp) : (s.withMq ms).rspValid = s.rspValid := rfl
@[simp] theorem State.withMq_rspErr (s : State) (ms : List MicroOp) : (s.withMq ms).rspErr = s.rspErr := rfl
@[simp] theorem State.withMq_rspData (s : State) (ms : List MicroOp) : (s.withMq ms).rspData = s.rspData := rfl
@[simp] theorem State.withMq_env (s : State) (ms : List MicroOp) : (s.withMq ms).env = s.env := rfl
@[simp] theorem State.withMq_ctrl (s : State) (ms : List MicroOp) : (s.withMq ms).ctrl = s.ctrl := rfl
@[simp] theorem State.withMq_requester (s : State) (ms : List MicroOp) : (s.withMq ms).requester = s.requester := rfl
@[simp] theorem State.withMq_events (s : State) (ms : List MicroOp) : (s.withMq ms).events = s.events := rfl
@[simp] theorem State.withMq_draws (s : State) (ms : List MicroOp) : (s.withMq ms).draws = s.draws := rfl

/-! ## withTimer

What a new TIMER leaves of each field. -/

@[simp] theorem State.withTimer_cfg (s : State) (n : BitVec 32) : (s.withTimer n).cfg = s.cfg := rfl
@[simp] theorem State.withTimer_session (s : State) (n : BitVec 32) : (s.withTimer n).session = s.session := rfl
@[simp] theorem State.withTimer_seq (s : State) (n : BitVec 32) : (s.withTimer n).seq = s.seq := rfl
@[simp] theorem State.withTimer_curOp (s : State) (n : BitVec 32) : (s.withTimer n).curOp = s.curOp := rfl
@[simp] theorem State.withTimer_mq (s : State) (n : BitVec 32) : (s.withTimer n).mq = s.mq := rfl
@[simp] theorem State.withTimer_timer (s : State) (n : BitVec 32) : (s.withTimer n).timer = n := rfl
@[simp] theorem State.withTimer_rsO (s : State) (n : BitVec 32) : (s.withTimer n).rsO = s.rsO := rfl
@[simp] theorem State.withTimer_rwO (s : State) (n : BitVec 32) : (s.withTimer n).rwO = s.rwO := rfl
@[simp] theorem State.withTimer_eO (s : State) (n : BitVec 32) : (s.withTimer n).eO = s.eO := rfl
@[simp] theorem State.withTimer_dir (s : State) (n : BitVec 32) : (s.withTimer n).dir = s.dir := rfl
@[simp] theorem State.withTimer_dbO (s : State) (n : BitVec 32) : (s.withTimer n).dbO = s.dbO := rfl
@[simp] theorem State.withTimer_rdata (s : State) (n : BitVec 32) : (s.withTimer n).rdata = s.rdata := rfl
@[simp] theorem State.withTimer_rspValid (s : State) (n : BitVec 32) : (s.withTimer n).rspValid = s.rspValid := rfl
@[simp] theorem State.withTimer_rspErr (s : State) (n : BitVec 32) : (s.withTimer n).rspErr = s.rspErr := rfl
@[simp] theorem State.withTimer_rspData (s : State) (n : BitVec 32) : (s.withTimer n).rspData = s.rspData := rfl
@[simp] theorem State.withTimer_env (s : State) (n : BitVec 32) : (s.withTimer n).env = s.env := rfl
@[simp] theorem State.withTimer_ctrl (s : State) (n : BitVec 32) : (s.withTimer n).ctrl = s.ctrl := rfl
@[simp] theorem State.withTimer_requester (s : State) (n : BitVec 32) : (s.withTimer n).requester = s.requester := rfl
@[simp] theorem State.withTimer_events (s : State) (n : BitVec 32) : (s.withTimer n).events = s.events := rfl
@[simp] theorem State.withTimer_draws (s : State) (n : BitVec 32) : (s.withTimer n).draws = s.draws := rfl

/-! ## takeRequest

What the taking of a request leaves of each field (42_session_init.md R115). -/

@[simp] theorem State.takeRequest_cfg (s : State) : s.takeRequest.cfg = s.cfg := rfl
@[simp] theorem State.takeRequest_session (s : State) : s.takeRequest.session = s.session := rfl
@[simp] theorem State.takeRequest_seq (s : State) : s.takeRequest.seq = s.seq := rfl
@[simp] theorem State.takeRequest_curOp (s : State) : s.takeRequest.curOp = s.curOp := rfl
@[simp] theorem State.takeRequest_mq (s : State) : s.takeRequest.mq = s.mq := rfl
@[simp] theorem State.takeRequest_timer (s : State) : s.takeRequest.timer = s.timer := rfl
@[simp] theorem State.takeRequest_rsO (s : State) : s.takeRequest.rsO = s.rsO := rfl
@[simp] theorem State.takeRequest_rwO (s : State) : s.takeRequest.rwO = s.rwO := rfl
@[simp] theorem State.takeRequest_eO (s : State) : s.takeRequest.eO = s.eO := rfl
@[simp] theorem State.takeRequest_dir (s : State) : s.takeRequest.dir = s.dir := rfl
@[simp] theorem State.takeRequest_dbO (s : State) : s.takeRequest.dbO = s.dbO := rfl
@[simp] theorem State.takeRequest_rdata (s : State) : s.takeRequest.rdata = s.rdata := rfl
@[simp] theorem State.takeRequest_rspValid (s : State) : s.takeRequest.rspValid = s.rspValid := rfl
@[simp] theorem State.takeRequest_rspErr (s : State) : s.takeRequest.rspErr = s.rspErr := rfl
@[simp] theorem State.takeRequest_rspData (s : State) : s.takeRequest.rspData = s.rspData := rfl
@[simp] theorem State.takeRequest_env (s : State) : s.takeRequest.env = s.env := rfl
@[simp] theorem State.takeRequest_ctrl (s : State) : s.takeRequest.ctrl = s.ctrl := rfl
@[simp] theorem State.takeRequest_requester (s : State) : s.takeRequest.requester = dropRequest s.requester := rfl
@[simp] theorem State.takeRequest_events (s : State) : s.takeRequest.events = s.events := rfl
@[simp] theorem State.takeRequest_draws (s : State) : s.takeRequest.draws = s.draws := rfl

/-! ## raise

What a rejection leaves of each field (60_exceptions.md R155). -/

@[simp] theorem State.raise_cfg (s : State) (e : BitVec 2) : (s.raise e).cfg = s.cfg := rfl
@[simp] theorem State.raise_session (s : State) (e : BitVec 2) : (s.raise e).session = s.session := rfl
@[simp] theorem State.raise_seq (s : State) (e : BitVec 2) : (s.raise e).seq = s.seq := rfl
@[simp] theorem State.raise_curOp (s : State) (e : BitVec 2) : (s.raise e).curOp = s.curOp := rfl
@[simp] theorem State.raise_mq (s : State) (e : BitVec 2) : (s.raise e).mq = s.mq := rfl
@[simp] theorem State.raise_timer (s : State) (e : BitVec 2) : (s.raise e).timer = s.timer := rfl
@[simp] theorem State.raise_rsO (s : State) (e : BitVec 2) : (s.raise e).rsO = s.rsO := rfl
@[simp] theorem State.raise_rwO (s : State) (e : BitVec 2) : (s.raise e).rwO = s.rwO := rfl
@[simp] theorem State.raise_eO (s : State) (e : BitVec 2) : (s.raise e).eO = s.eO := rfl
@[simp] theorem State.raise_dir (s : State) (e : BitVec 2) : (s.raise e).dir = s.dir := rfl
@[simp] theorem State.raise_dbO (s : State) (e : BitVec 2) : (s.raise e).dbO = s.dbO := rfl
@[simp] theorem State.raise_rdata (s : State) (e : BitVec 2) : (s.raise e).rdata = s.rdata := rfl
@[simp] theorem State.raise_rspValid (s : State) (e : BitVec 2) : (s.raise e).rspValid = true := rfl
@[simp] theorem State.raise_rspErr (s : State) (e : BitVec 2) : (s.raise e).rspErr = e := rfl
@[simp] theorem State.raise_rspData (s : State) (e : BitVec 2) : (s.raise e).rspData = 0 := rfl
@[simp] theorem State.raise_env (s : State) (e : BitVec 2) : (s.raise e).env = s.env := rfl
@[simp] theorem State.raise_ctrl (s : State) (e : BitVec 2) : (s.raise e).ctrl = s.ctrl := rfl
@[simp] theorem State.raise_requester (s : State) (e : BitVec 2) : (s.raise e).requester = s.requester := rfl
@[simp] theorem State.raise_events (s : State) (e : BitVec 2) : (s.raise e).events = s.events := rfl
@[simp] theorem State.raise_draws (s : State) (e : BitVec 2) : (s.raise e).draws = s.draws := rfl

/-! ## start

What the start of a request leaves of each field (42_session_init.md R118). -/

@[simp] theorem State.start_cfg (s : State) (op : BitVec 4) (ms : List MicroOp) : (s.start op ms).cfg = s.cfg := rfl
@[simp] theorem State.start_session (s : State) (op : BitVec 4) (ms : List MicroOp) : (s.start op ms).session = if op = 0x0 then Session.uninit else s.session := rfl
@[simp] theorem State.start_seq (s : State) (op : BitVec 4) (ms : List MicroOp) : (s.start op ms).seq = Seq.run := rfl
@[simp] theorem State.start_curOp (s : State) (op : BitVec 4) (ms : List MicroOp) : (s.start op ms).curOp = op := rfl
@[simp] theorem State.start_mq (s : State) (op : BitVec 4) (ms : List MicroOp) : (s.start op ms).mq = ms := rfl
@[simp] theorem State.start_timer (s : State) (op : BitVec 4) (ms : List MicroOp) : (s.start op ms).timer = s.timer := rfl
@[simp] theorem State.start_rsO (s : State) (op : BitVec 4) (ms : List MicroOp) : (s.start op ms).rsO = s.rsO := rfl
@[simp] theorem State.start_rwO (s : State) (op : BitVec 4) (ms : List MicroOp) : (s.start op ms).rwO = s.rwO := rfl
@[simp] theorem State.start_eO (s : State) (op : BitVec 4) (ms : List MicroOp) : (s.start op ms).eO = s.eO := rfl
@[simp] theorem State.start_dir (s : State) (op : BitVec 4) (ms : List MicroOp) : (s.start op ms).dir = s.dir := rfl
@[simp] theorem State.start_dbO (s : State) (op : BitVec 4) (ms : List MicroOp) : (s.start op ms).dbO = s.dbO := rfl
@[simp] theorem State.start_rdata (s : State) (op : BitVec 4) (ms : List MicroOp) : (s.start op ms).rdata = s.rdata := rfl
@[simp] theorem State.start_rspValid (s : State) (op : BitVec 4) (ms : List MicroOp) : (s.start op ms).rspValid = s.rspValid := rfl
@[simp] theorem State.start_rspErr (s : State) (op : BitVec 4) (ms : List MicroOp) : (s.start op ms).rspErr = s.rspErr := rfl
@[simp] theorem State.start_rspData (s : State) (op : BitVec 4) (ms : List MicroOp) : (s.start op ms).rspData = s.rspData := rfl
@[simp] theorem State.start_env (s : State) (op : BitVec 4) (ms : List MicroOp) : (s.start op ms).env = s.env := rfl
theorem State.start_ctrl (s : State) (op : BitVec 4) (ms : List MicroOp) : (s.start op ms).ctrl = if op = 0x0 then s.ctrl.beginInit else s.ctrl := rfl
@[simp] theorem State.start_requester (s : State) (op : BitVec 4) (ms : List MicroOp) : (s.start op ms).requester = s.requester := rfl
@[simp] theorem State.start_events (s : State) (op : BitVec 4) (ms : List MicroOp) : (s.start op ms).events = s.events := rfl
@[simp] theorem State.start_draws (s : State) (op : BitVec 4) (ms : List MicroOp) : (s.start op ms).draws = s.draws := rfl

/-! ## complete

What a completion leaves of each field (42_session_init.md R120). -/

@[simp] theorem State.complete_cfg (s : State) : s.complete.cfg = s.cfg := rfl
@[simp] theorem State.complete_session (s : State) : s.complete.session = if s.curOp = 0x0 then Session.ready else s.session := rfl
@[simp] theorem State.complete_seq (s : State) : s.complete.seq = Seq.idle := rfl
@[simp] theorem State.complete_curOp (s : State) : s.complete.curOp = s.curOp := rfl
@[simp] theorem State.complete_mq (s : State) : s.complete.mq = s.mq := rfl
@[simp] theorem State.complete_timer (s : State) : s.complete.timer = s.timer := rfl
@[simp] theorem State.complete_rsO (s : State) : s.complete.rsO = s.rsO := rfl
@[simp] theorem State.complete_rwO (s : State) : s.complete.rwO = s.rwO := rfl
@[simp] theorem State.complete_eO (s : State) : s.complete.eO = s.eO := rfl
@[simp] theorem State.complete_dir (s : State) : s.complete.dir = s.dir := rfl
@[simp] theorem State.complete_dbO (s : State) : s.complete.dbO = s.dbO := rfl
@[simp] theorem State.complete_rdata (s : State) : s.complete.rdata = s.rdata := rfl
@[simp] theorem State.complete_rspValid (s : State) : s.complete.rspValid = true := rfl
@[simp] theorem State.complete_rspErr (s : State) : s.complete.rspErr = rspOk := rfl
@[simp] theorem State.complete_rspData (s : State) : s.complete.rspData = if s.curOp = 0x3 then s.rdata else 0 := rfl
@[simp] theorem State.complete_env (s : State) : s.complete.env = s.env := rfl
@[simp] theorem State.complete_ctrl (s : State) : s.complete.ctrl = s.ctrl := rfl
@[simp] theorem State.complete_requester (s : State) : s.complete.requester = s.requester := rfl
@[simp] theorem State.complete_events (s : State) : s.complete.events = s.events := rfl
@[simp] theorem State.complete_draws (s : State) : s.complete.draws = s.draws := rfl

/-! ## resetAction

What the reset action leaves of each field (70_reset_and_hazards.md R176). -/

@[simp] theorem State.resetAction_cfg (s : State) : s.resetAction.cfg = s.cfg := rfl
@[simp] theorem State.resetAction_session (s : State) : s.resetAction.session = Session.uninit := rfl
@[simp] theorem State.resetAction_seq (s : State) : s.resetAction.seq = Seq.idle := rfl
@[simp] theorem State.resetAction_curOp (s : State) : s.resetAction.curOp = 0 := rfl
@[simp] theorem State.resetAction_mq (s : State) : s.resetAction.mq = [] := rfl
@[simp] theorem State.resetAction_timer (s : State) : s.resetAction.timer = 0 := rfl
@[simp] theorem State.resetAction_rsO (s : State) : s.resetAction.rsO = false := rfl
@[simp] theorem State.resetAction_rwO (s : State) : s.resetAction.rwO = false := rfl
@[simp] theorem State.resetAction_eO (s : State) : s.resetAction.eO = false := rfl
@[simp] theorem State.resetAction_dir (s : State) : s.resetAction.dir = Dir.output := rfl
@[simp] theorem State.resetAction_dbO (s : State) : s.resetAction.dbO = 0 := rfl
@[simp] theorem State.resetAction_rdata (s : State) : s.resetAction.rdata = 0 := rfl
@[simp] theorem State.resetAction_rspValid (s : State) : s.resetAction.rspValid = false := rfl
@[simp] theorem State.resetAction_rspErr (s : State) : s.resetAction.rspErr = 0 := rfl
@[simp] theorem State.resetAction_rspData (s : State) : s.resetAction.rspData = 0 := rfl
@[simp] theorem State.resetAction_env (s : State) : s.resetAction.env = s.env := rfl
@[simp] theorem State.resetAction_ctrl (s : State) : s.resetAction.ctrl = s.ctrl.cutPulse s.cfg s.eO s.draws := rfl
@[simp] theorem State.resetAction_requester (s : State) : s.resetAction.requester = s.requester := rfl
@[simp] theorem State.resetAction_events (s : State) : s.resetAction.events = s.events := rfl
@[simp] theorem State.resetAction_draws (s : State) : s.resetAction.draws = s.draws + 1 := rfl

/-! ## latch

What the execution of a bus word leaves of each field (20_memory.md R43). -/

@[simp] theorem State.latch_cfg (s : State) (w : BitVec 10) (eff : Nat → Controller → Controller) : (s.latch w eff).cfg = s.cfg := rfl
@[simp] theorem State.latch_session (s : State) (w : BitVec 10) (eff : Nat → Controller → Controller) : (s.latch w eff).session = s.session := rfl
@[simp] theorem State.latch_seq (s : State) (w : BitVec 10) (eff : Nat → Controller → Controller) : (s.latch w eff).seq = s.seq := rfl
@[simp] theorem State.latch_curOp (s : State) (w : BitVec 10) (eff : Nat → Controller → Controller) : (s.latch w eff).curOp = s.curOp := rfl
@[simp] theorem State.latch_mq (s : State) (w : BitVec 10) (eff : Nat → Controller → Controller) : (s.latch w eff).mq = s.mq := rfl
@[simp] theorem State.latch_timer (s : State) (w : BitVec 10) (eff : Nat → Controller → Controller) : (s.latch w eff).timer = s.timer := rfl
@[simp] theorem State.latch_rsO (s : State) (w : BitVec 10) (eff : Nat → Controller → Controller) : (s.latch w eff).rsO = s.rsO := rfl
@[simp] theorem State.latch_rwO (s : State) (w : BitVec 10) (eff : Nat → Controller → Controller) : (s.latch w eff).rwO = s.rwO := rfl
@[simp] theorem State.latch_eO (s : State) (w : BitVec 10) (eff : Nat → Controller → Controller) : (s.latch w eff).eO = s.eO := rfl
@[simp] theorem State.latch_dir (s : State) (w : BitVec 10) (eff : Nat → Controller → Controller) : (s.latch w eff).dir = s.dir := rfl
@[simp] theorem State.latch_dbO (s : State) (w : BitVec 10) (eff : Nat → Controller → Controller) : (s.latch w eff).dbO = s.dbO := rfl
@[simp] theorem State.latch_rdata (s : State) (w : BitVec 10) (eff : Nat → Controller → Controller) : (s.latch w eff).rdata = s.rdata := rfl
@[simp] theorem State.latch_rspValid (s : State) (w : BitVec 10) (eff : Nat → Controller → Controller) : (s.latch w eff).rspValid = s.rspValid := rfl
@[simp] theorem State.latch_rspErr (s : State) (w : BitVec 10) (eff : Nat → Controller → Controller) : (s.latch w eff).rspErr = s.rspErr := rfl
@[simp] theorem State.latch_rspData (s : State) (w : BitVec 10) (eff : Nat → Controller → Controller) : (s.latch w eff).rspData = s.rspData := rfl
@[simp] theorem State.latch_env (s : State) (w : BitVec 10) (eff : Nat → Controller → Controller) : (s.latch w eff).env = s.env := rfl
@[simp] theorem State.latch_ctrl (s : State) (w : BitVec 10) (eff : Nat → Controller → Controller) : (s.latch w eff).ctrl = (if s.ctrl.known then eff s.draws s.ctrl else s.ctrl.anyState s.draws).handshake s.cfg w := rfl
@[simp] theorem State.latch_requester (s : State) (w : BitVec 10) (eff : Nat → Controller → Controller) : (s.latch w eff).requester = s.requester := rfl
@[simp] theorem State.latch_events (s : State) (w : BitVec 10) (eff : Nat → Controller → Controller) : (s.latch w eff).events = s.events := rfl
@[simp] theorem State.latch_draws (s : State) (w : BitVec 10) (eff : Nat → Controller → Controller) : (s.latch w eff).draws = s.draws + 1 := rfl

/-! ## latchUnknown

What an unknown word leaves of each field (93_implementation_defined.md U5). -/

@[simp] theorem State.latchUnknown_cfg (s : State) : s.latchUnknown.cfg = s.cfg := rfl
@[simp] theorem State.latchUnknown_session (s : State) : s.latchUnknown.session = s.session := rfl
@[simp] theorem State.latchUnknown_seq (s : State) : s.latchUnknown.seq = s.seq := rfl
@[simp] theorem State.latchUnknown_curOp (s : State) : s.latchUnknown.curOp = s.curOp := rfl
@[simp] theorem State.latchUnknown_mq (s : State) : s.latchUnknown.mq = s.mq := rfl
@[simp] theorem State.latchUnknown_timer (s : State) : s.latchUnknown.timer = s.timer := rfl
@[simp] theorem State.latchUnknown_rsO (s : State) : s.latchUnknown.rsO = s.rsO := rfl
@[simp] theorem State.latchUnknown_rwO (s : State) : s.latchUnknown.rwO = s.rwO := rfl
@[simp] theorem State.latchUnknown_eO (s : State) : s.latchUnknown.eO = s.eO := rfl
@[simp] theorem State.latchUnknown_dir (s : State) : s.latchUnknown.dir = s.dir := rfl
@[simp] theorem State.latchUnknown_dbO (s : State) : s.latchUnknown.dbO = s.dbO := rfl
@[simp] theorem State.latchUnknown_rdata (s : State) : s.latchUnknown.rdata = s.rdata := rfl
@[simp] theorem State.latchUnknown_rspValid (s : State) : s.latchUnknown.rspValid = s.rspValid := rfl
@[simp] theorem State.latchUnknown_rspErr (s : State) : s.latchUnknown.rspErr = s.rspErr := rfl
@[simp] theorem State.latchUnknown_rspData (s : State) : s.latchUnknown.rspData = s.rspData := rfl
@[simp] theorem State.latchUnknown_env (s : State) : s.latchUnknown.env = s.env := rfl
@[simp] theorem State.latchUnknown_ctrl (s : State) : s.latchUnknown.ctrl = s.ctrl.lost s.draws := rfl
@[simp] theorem State.latchUnknown_requester (s : State) : s.latchUnknown.requester = s.requester := rfl
@[simp] theorem State.latchUnknown_events (s : State) : s.latchUnknown.events = s.events := rfl
@[simp] theorem State.latchUnknown_draws (s : State) : s.latchUnknown.draws = s.draws + 1 := rfl

/-! ## loweredE

What the fall of E leaves of each field (40_transport.md R81). -/

@[simp] theorem State.loweredE_cfg (s : State) : s.loweredE.cfg = s.cfg := rfl
@[simp] theorem State.loweredE_session (s : State) : s.loweredE.session = s.session := rfl
@[simp] theorem State.loweredE_seq (s : State) : s.loweredE.seq = s.seq := rfl
@[simp] theorem State.loweredE_curOp (s : State) : s.loweredE.curOp = s.curOp := rfl
@[simp] theorem State.loweredE_mq (s : State) : s.loweredE.mq = s.mq := rfl
@[simp] theorem State.loweredE_timer (s : State) : s.loweredE.timer = s.timer := rfl
@[simp] theorem State.loweredE_rsO (s : State) : s.loweredE.rsO = s.rsO := rfl
@[simp] theorem State.loweredE_rwO (s : State) : s.loweredE.rwO = s.rwO := rfl
@[simp] theorem State.loweredE_eO (s : State) : s.loweredE.eO = false := rfl
@[simp] theorem State.loweredE_dir (s : State) : s.loweredE.dir = s.dir := rfl
@[simp] theorem State.loweredE_dbO (s : State) : s.loweredE.dbO = s.dbO := rfl
@[simp] theorem State.loweredE_rdata (s : State) : s.loweredE.rdata = s.rdata := rfl
@[simp] theorem State.loweredE_rspValid (s : State) : s.loweredE.rspValid = s.rspValid := rfl
@[simp] theorem State.loweredE_rspErr (s : State) : s.loweredE.rspErr = s.rspErr := rfl
@[simp] theorem State.loweredE_rspData (s : State) : s.loweredE.rspData = s.rspData := rfl
@[simp] theorem State.loweredE_env (s : State) : s.loweredE.env = s.env := rfl
@[simp] theorem State.loweredE_ctrl (s : State) : s.loweredE.ctrl = { s.ctrl with sinceEdge := 0, need := s.neededAfterWord } := rfl
@[simp] theorem State.loweredE_requester (s : State) : s.loweredE.requester = s.requester := rfl
@[simp] theorem State.loweredE_events (s : State) : s.loweredE.events = s.events := rfl
@[simp] theorem State.loweredE_draws (s : State) : s.loweredE.draws = s.draws := rfl

/-! ## Controller.anyData -/

@[simp] theorem Controller.anyData_ac (c : Controller) (n : Nat) : (c.anyData n).ac = freeAc n := rfl
@[simp] theorem Controller.anyData_space (c : Controller) (n : Nat) : (c.anyData n).space = freeSpace n := rfl
@[simp] theorem Controller.anyData_ddram (c : Controller) (n : Nat) : (c.anyData n).ddram = [] := rfl
@[simp] theorem Controller.anyData_cgram (c : Controller) (n : Nat) : (c.anyData n).cgram = [] := rfl
@[simp] theorem Controller.anyData_modes (c : Controller) (n : Nat) : (c.anyData n).modes = c.modes := rfl
@[simp] theorem Controller.anyData_known (c : Controller) (n : Nat) : (c.anyData n).known = c.known := rfl
@[simp] theorem Controller.anyData_recent (c : Controller) (n : Nat) : (c.anyData n).recent = c.recent := rfl
@[simp] theorem Controller.anyData_poweredForInit (c : Controller) (n : Nat) : (c.anyData n).poweredForInit = c.poweredForInit := rfl
@[simp] theorem Controller.anyData_up (c : Controller) (n : Nat) : (c.anyData n).up = c.up := rfl
@[simp] theorem Controller.anyData_sinceEdge (c : Controller) (n : Nat) : (c.anyData n).sinceEdge = c.sinceEdge := rfl
@[simp] theorem Controller.anyData_gap (c : Controller) (n : Nat) : (c.anyData n).gap = c.gap := rfl
@[simp] theorem Controller.anyData_need (c : Controller) (n : Nat) : (c.anyData n).need = c.need := rfl

/-! ## Controller.anyState -/

@[simp] theorem Controller.anyState_ac (c : Controller) (n : Nat) : (c.anyState n).ac = freeAc n := rfl
@[simp] theorem Controller.anyState_space (c : Controller) (n : Nat) : (c.anyState n).space = freeSpace n := rfl
@[simp] theorem Controller.anyState_ddram (c : Controller) (n : Nat) : (c.anyState n).ddram = [] := rfl
@[simp] theorem Controller.anyState_cgram (c : Controller) (n : Nat) : (c.anyState n).cgram = [] := rfl
@[simp] theorem Controller.anyState_modes (c : Controller) (n : Nat) : (c.anyState n).modes = freeModes n := rfl
@[simp] theorem Controller.anyState_known (c : Controller) (n : Nat) : (c.anyState n).known = c.known := rfl
@[simp] theorem Controller.anyState_recent (c : Controller) (n : Nat) : (c.anyState n).recent = c.recent := rfl
@[simp] theorem Controller.anyState_poweredForInit (c : Controller) (n : Nat) : (c.anyState n).poweredForInit = c.poweredForInit := rfl
@[simp] theorem Controller.anyState_up (c : Controller) (n : Nat) : (c.anyState n).up = c.up := rfl
@[simp] theorem Controller.anyState_sinceEdge (c : Controller) (n : Nat) : (c.anyState n).sinceEdge = c.sinceEdge := rfl
@[simp] theorem Controller.anyState_gap (c : Controller) (n : Nat) : (c.anyState n).gap = c.gap := rfl
@[simp] theorem Controller.anyState_need (c : Controller) (n : Nat) : (c.anyState n).need = c.need := rfl

/-! ## Controller.lost -/

@[simp] theorem Controller.lost_ac (c : Controller) (n : Nat) : (c.lost n).ac = freeAc n := rfl
@[simp] theorem Controller.lost_space (c : Controller) (n : Nat) : (c.lost n).space = freeSpace n := rfl
@[simp] theorem Controller.lost_ddram (c : Controller) (n : Nat) : (c.lost n).ddram = [] := rfl
@[simp] theorem Controller.lost_cgram (c : Controller) (n : Nat) : (c.lost n).cgram = [] := rfl
@[simp] theorem Controller.lost_modes (c : Controller) (n : Nat) : (c.lost n).modes = freeModes n := rfl
@[simp] theorem Controller.lost_known (c : Controller) (n : Nat) : (c.lost n).known = false := rfl
@[simp] theorem Controller.lost_recent (c : Controller) (n : Nat) : (c.lost n).recent = [] := rfl
@[simp] theorem Controller.lost_poweredForInit (c : Controller) (n : Nat) : (c.lost n).poweredForInit = false := rfl
@[simp] theorem Controller.lost_up (c : Controller) (n : Nat) : (c.lost n).up = c.up := rfl
@[simp] theorem Controller.lost_sinceEdge (c : Controller) (n : Nat) : (c.lost n).sinceEdge = c.sinceEdge := rfl
@[simp] theorem Controller.lost_gap (c : Controller) (n : Nat) : (c.lost n).gap = c.gap := rfl
@[simp] theorem Controller.lost_need (c : Controller) (n : Nat) : (c.lost n).need = c.need := rfl

/-! ## Controller.beginInit

What the acceptance of INIT leaves of each field (70_reset_and_hazards.md R179). -/

@[simp] theorem Controller.beginInit_ac (c : Controller) : c.beginInit.ac = c.ac := rfl
@[simp] theorem Controller.beginInit_space (c : Controller) : c.beginInit.space = c.space := rfl
@[simp] theorem Controller.beginInit_ddram (c : Controller) : c.beginInit.ddram = c.ddram := rfl
@[simp] theorem Controller.beginInit_cgram (c : Controller) : c.beginInit.cgram = c.cgram := rfl
@[simp] theorem Controller.beginInit_modes (c : Controller) : c.beginInit.modes = c.modes := rfl
@[simp] theorem Controller.beginInit_known (c : Controller) : c.beginInit.known = c.known := rfl
@[simp] theorem Controller.beginInit_recent (c : Controller) : c.beginInit.recent = c.recent := rfl
@[simp] theorem Controller.beginInit_up (c : Controller) : c.beginInit.up = c.up := rfl
@[simp] theorem Controller.beginInit_sinceEdge (c : Controller) : c.beginInit.sinceEdge = c.sinceEdge := rfl
@[simp] theorem Controller.beginInit_gap (c : Controller) : c.beginInit.gap = c.gap := rfl
@[simp] theorem Controller.beginInit_need (c : Controller) : c.beginInit.need = c.need := rfl
@[simp] theorem Controller.beginInit_poweredForInit (c : Controller) : c.beginInit.poweredForInit = decide (0 < c.up) := rfl

/-! ## The controller at the start of a request

INIT notes whether the controller is powered; no other field changes (42_session_init.md R118,
70_reset_and_hazards.md R179). -/

@[simp] theorem State.start_ctrl_ac (s : State) (op : BitVec 4) (ms : List MicroOp) :
    (s.start op ms).ctrl.ac = s.ctrl.ac := by rw [State.start_ctrl]; split <;> rfl
@[simp] theorem State.start_ctrl_space (s : State) (op : BitVec 4) (ms : List MicroOp) :
    (s.start op ms).ctrl.space = s.ctrl.space := by rw [State.start_ctrl]; split <;> rfl
@[simp] theorem State.start_ctrl_ddram (s : State) (op : BitVec 4) (ms : List MicroOp) :
    (s.start op ms).ctrl.ddram = s.ctrl.ddram := by rw [State.start_ctrl]; split <;> rfl
@[simp] theorem State.start_ctrl_cgram (s : State) (op : BitVec 4) (ms : List MicroOp) :
    (s.start op ms).ctrl.cgram = s.ctrl.cgram := by rw [State.start_ctrl]; split <;> rfl
@[simp] theorem State.start_ctrl_modes (s : State) (op : BitVec 4) (ms : List MicroOp) :
    (s.start op ms).ctrl.modes = s.ctrl.modes := by rw [State.start_ctrl]; split <;> rfl
@[simp] theorem State.start_ctrl_known (s : State) (op : BitVec 4) (ms : List MicroOp) :
    (s.start op ms).ctrl.known = s.ctrl.known := by rw [State.start_ctrl]; split <;> rfl
@[simp] theorem State.start_ctrl_recent (s : State) (op : BitVec 4) (ms : List MicroOp) :
    (s.start op ms).ctrl.recent = s.ctrl.recent := by rw [State.start_ctrl]; split <;> rfl
@[simp] theorem State.start_ctrl_up (s : State) (op : BitVec 4) (ms : List MicroOp) :
    (s.start op ms).ctrl.up = s.ctrl.up := by rw [State.start_ctrl]; split <;> rfl
@[simp] theorem State.start_ctrl_sinceEdge (s : State) (op : BitVec 4) (ms : List MicroOp) :
    (s.start op ms).ctrl.sinceEdge = s.ctrl.sinceEdge := by rw [State.start_ctrl]; split <;> rfl
@[simp] theorem State.start_ctrl_gap (s : State) (op : BitVec 4) (ms : List MicroOp) :
    (s.start op ms).ctrl.gap = s.ctrl.gap := by rw [State.start_ctrl]; split <;> rfl
@[simp] theorem State.start_ctrl_need (s : State) (op : BitVec 4) (ms : List MicroOp) :
    (s.start op ms).ctrl.need = s.ctrl.need := by rw [State.start_ctrl]; split <;> rfl
@[simp] theorem State.start_ctrl_poweredForInit (s : State) (op : BitVec 4) (ms : List MicroOp) :
    (s.start op ms).ctrl.poweredForInit = if op = 0x0 then decide (0 < s.ctrl.up) else s.ctrl.poweredForInit := by
  rw [State.start_ctrl]; split <;> rfl

end Sys2Proof.Machine
end

