-- ==== Sys2Proof/Laws/Ops.lean ====
section
/-! SUPPORT. One lemma per shared operation: everything it can do. -/

namespace Sys2Proof.Machine

open Sys2Proof

/-- The acceptance check has three outcomes (42_session_init.md R117). -/
theorem State.accept_cases (s : State) (op : BitVec 4) (ms : List MicroOp) :
    (0xD ≤ op.toNat ∧ s.accept op ms = s.raise rspIllegal) ∨
    (op.toNat < 0xD ∧ op ≠ 0x0 ∧ s.session = .uninit ∧ s.accept op ms = s.raise rspNotReady) ∨
    (op.toNat < 0xD ∧ (op = 0x0 ∨ s.session = .ready) ∧ s.accept op ms = s.start op ms) := by
  unfold State.accept
  split
  · exact .inl ⟨‹_›, rfl⟩
  · rename_i h
    split
    · rename_i h'
      exact .inr (.inl ⟨by omega, h'.1, h'.2, rfl⟩)
    · rename_i h'
      refine .inr (.inr ⟨by omega, ?_, rfl⟩)
      by_cases ho : op = 0x0
      · exact .inl ho
      · cases hs : s.session
        · exact absurd ⟨ho, hs⟩ h'
        · exact .inr rfl

/-- A request other than INIT starts in READY (42_session_init.md R117). -/
theorem State.accept_ready (s : State) (op : BitVec 4) (ms : List MicroOp) (h : op.toNat < 0xD)
    (hs : s.session = .ready) : s.accept op ms = s.start op ms := by
  have h' : ¬ 0xD ≤ op.toNat := by omega
  simp [State.accept, h', hs]

/-- A request other than INIT is rejected in UNINIT (42_session_init.md R117). -/
theorem State.accept_uninit (s : State) (op : BitVec 4) (ms : List MicroOp) (h : op.toNat < 0xD) (h0 : op ≠ 0x0)
    (hs : s.session = .uninit) : s.accept op ms = s.raise rspNotReady := by
  have h' : ¬ 0xD ≤ op.toNat := by omega
  rw [State.accept, if_neg h', if_pos ⟨h0, hs⟩]

/-- A reserved opcode is rejected in either session state (42_session_init.md R117). -/
theorem State.accept_illegal (s : State) (op : BitVec 4) (ms : List MicroOp) (h : 0xD ≤ op.toNat) :
    s.accept op ms = s.raise rspIllegal := by
  simp [State.accept, h]

/-- The recognition of the handshake changes no more than `known`, `modes` and `recent`
(42_session_init.md R125, R126). -/
theorem Controller.handshake_frame (cfg : Config) (w : BitVec 10) (c : Controller) :
    ∃ k m, c.handshake cfg w = { c with known := k, modes := m, recent := c.noted w } := by
  unfold Controller.handshake
  split
  · exact ⟨_, _, rfl⟩
  · exact ⟨c.known, c.modes, rfl⟩

/-- The word is noted in either case. -/
@[simp] theorem Controller.handshake_recent (cfg : Config) (w : BitVec 10) (c : Controller) :
    (c.handshake cfg w).recent = c.noted w := by
  obtain ⟨k, m, h⟩ := c.handshake_frame cfg w
  rw [h]

/-- A word that is not the handshake's last changes neither `known` nor `modes`. -/
theorem Controller.handshake_other (cfg : Config) (w : BitVec 10) (c : Controller) (h : w ≠ 0x006) :
    c.handshake cfg w = { c with recent := c.noted w } := by
  unfold Controller.handshake
  rw [if_neg]
  rintro ⟨-, hh⟩
  simp only [isHandshake, Bool.and_eq_true, beq_iff_eq, Controller.noted] at hh
  obtain ⟨hl, ha⟩ := hh
  have hlen : c.recent.length - 6 ≤ c.recent.length := by omega
  rw [List.drop_append_of_le_length hlen] at hl ha
  have hr : (c.recent.drop (c.recent.length - 6)).length = 6 := by
    simp only [List.length_append, List.length_cons, List.length_nil] at hl
    omega
  generalize c.recent.drop (c.recent.length - 6) = r at hr ha
  match r, hr with
  | [a1, a2, a3, a4, a5, a6], _ =>
    simp [handshakeSteps] at ha
    exact h ha.2.2.2.2.2.2.1

@[simp] theorem Controller.handshake_sinceEdge (cfg : Config) (w : BitVec 10) (c : Controller) :
    (c.handshake cfg w).sinceEdge = c.sinceEdge := by
  obtain ⟨k, m, h⟩ := c.handshake_frame cfg w
  rw [h]

@[simp] theorem Controller.handshake_need (cfg : Config) (w : BitVec 10) (c : Controller) :
    (c.handshake cfg w).need = c.need := by
  obtain ⟨k, m, h⟩ := c.handshake_frame cfg w
  rw [h]

@[simp] theorem Controller.handshake_ac (cfg : Config) (w : BitVec 10) (c : Controller) :
    (c.handshake cfg w).ac = c.ac := by
  obtain ⟨k, m, h⟩ := c.handshake_frame cfg w
  rw [h]

@[simp] theorem Controller.handshake_space (cfg : Config) (w : BitVec 10) (c : Controller) :
    (c.handshake cfg w).space = c.space := by
  obtain ⟨k, m, h⟩ := c.handshake_frame cfg w
  rw [h]

@[simp] theorem Controller.handshake_ddram (cfg : Config) (w : BitVec 10) (c : Controller) :
    (c.handshake cfg w).ddram = c.ddram := by
  obtain ⟨k, m, h⟩ := c.handshake_frame cfg w
  rw [h]

@[simp] theorem Controller.handshake_cgram (cfg : Config) (w : BitVec 10) (c : Controller) :
    (c.handshake cfg w).cgram = c.cgram := by
  obtain ⟨k, m, h⟩ := c.handshake_frame cfg w
  rw [h]

@[simp] theorem Controller.handshake_poweredForInit (cfg : Config) (w : BitVec 10) (c : Controller) :
    (c.handshake cfg w).poweredForInit = c.poweredForInit := by
  obtain ⟨k, m, h⟩ := c.handshake_frame cfg w
  rw [h]

/-- A controller becomes known only if it was powered when the last INIT was accepted (70_reset_and_hazards.md R179). -/
theorem Controller.handshake_known (cfg : Config) (w : BitVec 10) (c : Controller) :
    (c.handshake cfg w).known = true ↔
      c.known = true ∨ c.poweredForInit = true ∧ isHandshake cfg (c.noted w) = true := by
  unfold Controller.handshake
  split <;> simp_all

/-- The passing of a tick adds T_TICK to the time since the last edge (20_memory.md R49). -/
@[simp] theorem Controller.elapse_sinceEdge (cfg : Config) (pc : Bool) (n : Nat) (c : Controller) :
    (c.elapse cfg pc n).sinceEdge = c.sinceEdge + cfg.tTick := by
  cases pc <;> rfl

@[simp] theorem Controller.elapse_need (cfg : Config) (pc : Bool) (n : Nat) (c : Controller) :
    (c.elapse cfg pc n).need = c.need := by
  cases pc <;> rfl

/-- A power cycle leaves nothing known, and no INIT that began before it counts (20_memory.md R50,
70_reset_and_hazards.md R180). -/
theorem Controller.elapse_powerCycle (cfg : Config) (n : Nat) (c : Controller) :
    c.elapse cfg true n = { c.lost n with up := 0, gap := 0, sinceEdge := c.sinceEdge + cfg.tTick } := rfl

/-- Without a power cycle a tick only lets time pass. -/
theorem Controller.elapse_quiet (cfg : Config) (n : Nat) (c : Controller) :
    c.elapse cfg false n = { c with up := c.up + cfg.tTick, sinceEdge := c.sinceEdge + cfg.tTick } := rfl

end Sys2Proof.Machine
end

