-- ==== Sys2Proof/Laws/Step.lean ====
section
/-! SUPPORT. What a step can do, said once (42_session_init.md R116, 40_transport.md R83): the lemmas about `step` cite
this instead of unfolding it. -/

namespace Sys2Proof.Machine

open Sys2Proof

/-- The outcome of what a tick comes to. -/
def Fetched.outcome : Fetched → Host.Outcome State Fault Refusal
  | .done t => .next t
  | .run i t => exec i t
  | .stop r => .fault r

theorem step_eq (s : State) : step s = (fetch s).outcome := by
  unfold step Fetched.outcome
  rfl

/-- A tick with RST (70_reset_and_hazards.md R176). -/
theorem step_rst (s : State) (hr : s.rspErr ≠ rspReserved) (h : s.rst = true) :
    step s = .next s.beginTick.resetAction := by
  simp [step, fetch, hr, h]

/-- A tick of a wait (40_transport.md R83). -/
theorem step_wait (s : State) (hr : s.rspErr ≠ rspReserved) (h : s.rst = false) (hq : s.seq = .run)
    (ht : s.timer ≠ 0) : step s = .next (s.beginTick.withTimer (s.timer - 1)) := by
  simp only [step, fetch, if_neg hr, h, hq, sequencerTick, State.beginTick_timer, ht, Bool.false_eq_true,
    if_false]

/-- A tick of a micro-op (40_transport.md R82, R83). -/
theorem step_microOp (s : State) (hr : s.rspErr ≠ rspReserved) (h : s.rst = false) (hq : s.seq = .run)
    (ht : s.timer = 0) (m : MicroOp) (rest : List MicroOp) (hm : s.mq = m :: rest) :
    step s = (runMicroOp m (s.beginTick.withMq rest)).outcome := by
  rw [step_eq]
  simp [fetch, hr, h, hq, sequencerTick, ht, hm]

/-- The tick of the completion (42_session_init.md R120). -/
theorem step_complete (s : State) (hr : s.rspErr ≠ rspReserved) (h : s.rst = false) (hq : s.seq = .run)
    (ht : s.timer = 0) (hm : s.mq = []) : step s = .next s.beginTick.complete := by
  simp [step, fetch, hr, h, hq, sequencerTick, ht, hm]

/-- The tick in which an idle block takes a request (42_session_init.md R117). -/
theorem step_request (s : State) (hr : s.rspErr ≠ rspReserved) (h : s.rst = false) (hq : s.seq = .idle)
    (r : Request) (hp : s.presented = some r) :
    step s = exec (decodeRequest r.req r.lb) s.beginTick.takeRequest := by
  simp [step, fetch, hr, h, hq, hp]

/-- A tick in which an idle block is presented nothing. -/
theorem step_quiet (s : State) (hr : s.rspErr ≠ rspReserved) (h : s.rst = false) (hq : s.seq = .idle)
    (hp : s.presented = none) : step s = .next s.beginTick := by
  simp [step, fetch, hr, h, hq, hp]

/-- What a step that answers a next state has done. -/
theorem step_cases {s t : State} (h : step s = .next t) :
    s.rspErr ≠ rspReserved ∧
    ((s.rst = true ∧ t = s.beginTick.resetAction) ∨
     (s.rst = false ∧ s.seq = .run ∧ s.timer ≠ 0 ∧ t = (s.beginTick.withTimer (s.timer - 1))) ∨
     (s.rst = false ∧ s.seq = .run ∧ s.timer = 0 ∧ s.mq = [] ∧ t = s.beginTick.complete) ∨
     (∃ m rest, s.rst = false ∧ s.seq = .run ∧ s.timer = 0 ∧ s.mq = m :: rest ∧
        (runMicroOp m (s.beginTick.withMq rest)).outcome = .next t) ∨
     (s.rst = false ∧ s.seq = .idle ∧ s.presented = none ∧ t = s.beginTick) ∨
     (∃ r, s.rst = false ∧ s.seq = .idle ∧ s.presented = some r ∧
        exec (decodeRequest r.req r.lb) s.beginTick.takeRequest = .next t)) := by
  by_cases hr : s.rspErr = rspReserved
  · simp [step, fetch, hr] at h
  refine ⟨hr, ?_⟩
  cases hrst : s.rst
  · cases hq : s.seq
    · cases hp : s.presented with
      | none =>
        rw [step_quiet s hr hrst hq hp] at h
        exact .inr (.inr (.inr (.inr (.inl ⟨rfl, rfl, rfl, (Host.Outcome.next.inj h).symm⟩))))
      | some r =>
        rw [step_request s hr hrst hq r hp] at h
        exact .inr (.inr (.inr (.inr (.inr ⟨r, rfl, rfl, rfl, h⟩))))
    · by_cases ht : s.timer = 0
      · cases hm : s.mq with
        | nil =>
          rw [step_complete s hr hrst hq ht hm] at h
          exact .inr (.inr (.inl ⟨rfl, rfl, ht, rfl, (Host.Outcome.next.inj h).symm⟩))
        | cons m rest =>
          rw [step_microOp s hr hrst hq ht m rest hm] at h
          exact .inr (.inr (.inr (.inl ⟨m, rest, rfl, rfl, ht, rfl, h⟩)))
      · rw [step_wait s hr hrst hq ht] at h
        exact .inr (.inl ⟨rfl, rfl, ht, (Host.Outcome.next.inj h).symm⟩)
  · rw [step_rst s hr hrst] at h
    exact .inl ⟨rfl, (Host.Outcome.next.inj h).symm⟩

/-- A request's meaning either starts it, rejects it, or refuses ill-formed lines; a bus word's meaning changes the
controller and the draws only. -/
theorem exec_cases (i : Instr) (s t : State) (h : exec i s = .next t) :
    (∃ op ms, t = s.accept op ms) ∨ (∃ w eff, t = s.latch w eff) := by
  cases i
  case writeTwoLines l1 l2 pd =>
    simp only [exec, execWriteTwoLines] at h
    split at h
    · simp only [Host.Outcome.next.injEq] at h
      exact .inl ⟨_, _, h.symm⟩
    · exact absurd h (by simp)
  case init pd => exact .inl ⟨_, _, (Host.Outcome.next.inj h).symm⟩
  case command a pd => exact .inl ⟨_, _, (Host.Outcome.next.inj h).symm⟩
  case writeByte a pd => exact .inl ⟨_, _, (Host.Outcome.next.inj h).symm⟩
  case readByte pd => exact .inl ⟨_, _, (Host.Outcome.next.inj h).symm⟩
  case clearDisplay pd => exact .inl ⟨_, _, (Host.Outcome.next.inj h).symm⟩
  case returnHome pd => exact .inl ⟨_, _, (Host.Outcome.next.inj h).symm⟩
  case entryModeSet a b pd => exact .inl ⟨_, _, (Host.Outcome.next.inj h).symm⟩
  case displayOnOff a b c pd => exact .inl ⟨_, _, (Host.Outcome.next.inj h).symm⟩
  case cursorDisplayShift a b pd => exact .inl ⟨_, _, (Host.Outcome.next.inj h).symm⟩
  case functionSet a b c pd => exact .inl ⟨_, _, (Host.Outcome.next.inj h).symm⟩
  case setCgramAddress a pd => exact .inl ⟨_, _, (Host.Outcome.next.inj h).symm⟩
  case setDdramAddress a pd => exact .inl ⟨_, _, (Host.Outcome.next.inj h).symm⟩
  case reservedD => exact .inl ⟨_, _, (Host.Outcome.next.inj h).symm⟩
  case reservedEF a => exact .inl ⟨_, _, (Host.Outcome.next.inj h).symm⟩
  all_goals exact .inr ⟨_, _, (Host.Outcome.next.inj h).symm⟩

/-- The request of a request word reaches the acceptance check with its opcode (42_session_init.md R117). -/
theorem exec_decodeRequest (req : BitVec 32) (lb : BitVec 128) (s : State) :
    ∃ ms, exec (decodeRequest req lb) s = .next (s.accept (reqOp req) ms) := by
  have op : ∀ k : BitVec 4, (reqOp req).toNat = k.toNat → reqOp req = k := fun k h => BitVec.eq_of_toNat_eq h
  have odd : req.getLsbD 0 = (reqOp req).getLsbD 0 := by simp [reqOp]
  have hl : (reqOp req).toNat < 16 := (reqOp req).isLt
  unfold decodeRequest
  generalize hn : (reqOp req).toNat = n at hl
  interval_cases n
  · rw [op 0x0 hn]
    exact ⟨_, rfl⟩
  · rw [op 0x1 hn]
    exact ⟨_, rfl⟩
  · rw [op 0x2 hn]
    exact ⟨_, rfl⟩
  · rw [op 0x3 hn]
    exact ⟨_, rfl⟩
  · rw [op 0x4 hn]
    exact ⟨_, rfl⟩
  · rw [op 0x5 hn]
    exact ⟨_, rfl⟩
  · rw [op 0x6 hn]
    exact ⟨_, rfl⟩
  · rw [op 0x7 hn]
    exact ⟨_, rfl⟩
  · rw [op 0x8 hn]
    exact ⟨_, rfl⟩
  · rw [op 0x9 hn]
    exact ⟨_, rfl⟩
  · rw [op 0xA hn]
    exact ⟨_, rfl⟩
  · rw [op 0xB hn]
    exact ⟨_, rfl⟩
  · rw [op 0xC hn]
    refine ⟨program s.cfg (reqPd req) (lineTransactions s.cfg (lbLine1 lb) (lbLine2 lb)), ?_⟩
    simp only [exec, execWriteTwoLines]
    rw [if_pos ⟨by simp [lbLine1, rowLen], by simp [lbLine2, rowLen]⟩]
  · rw [op 0xD hn]
    exact ⟨_, rfl⟩
  · rw [odd, op 0xE hn]
    exact ⟨[], rfl⟩
  · rw [odd, op 0xF hn]
    exact ⟨[], rfl⟩

end Sys2Proof.Machine
end

