-- ==== Sys2Proof/Laws/Controller.lean ====
section
/-! SUPPORT. What the controller's operations can do, said once: the memories stay in canonical form, the times of the E
line stay, and an edge of E changes nothing of the block but E. -/

namespace Sys2Proof.Machine

open Sys2Proof

/-- Both memories of a controller are in canonical form. -/
abbrev Controller.memWf (c : Controller) : Prop := Memory.wf 128 c.ddram ∧ Memory.wf 64 c.cgram

/-- The times of the E line and the settling time are those of another controller value. -/
abbrev Controller.SameTimes (c d : Controller) : Prop :=
  c.up = d.up ∧ c.sinceEdge = d.sinceEdge ∧ c.gap = d.gap ∧ c.need = d.need

/-- What every bus word's effect keeps: the canonical form of the memories, the times, and that nothing becomes known
without the handshake (20_memory.md R50, 70_reset_and_hazards.md R179). -/
abbrev Controller.KeepsContract (eff : Nat → Controller → Controller) : Prop :=
  ∀ n c, (c.memWf → (eff n c).memWf) ∧ (eff n c).SameTimes c ∧ ((eff n c).known = true → c.known = true) ∧
    ((eff n c).poweredForInit = true → c.poweredForInit = true)

/-- The selected address lies in its memory (20_memory.md R41). -/
theorem Controller.address_le (c : Controller) : c.address ≤ lastAddress c.space := by
  have := c.ac.isLt
  cases h : c.space <;> simp only [Controller.address, lastAddress, h] <;> omega

/-- Where nothing is known of the memories they are in canonical form. -/
theorem Controller.memWf_empty (c : Controller) (h1 : c.ddram = []) (h2 : c.cgram = []) : c.memWf := by
  simp [Controller.memWf, Memory.wf, h1, h2]

/-- A store keeps the canonical form, the times, AC, the selected memory and the modes (20_memory.md R47). -/
theorem Controller.store_spec (cfg : Config) (c : Controller) (b : Byte) :
    (c.memWf → (c.store cfg b).memWf) ∧ (c.store cfg b).SameTimes c ∧
      ∃ dd cg, c.store cfg b = { c with ddram := dd, cgram := cg } := by
  have ha := c.address_le
  unfold Controller.store
  split <;> cases hs : c.space <;> simp only [Controller.setCells, Controller.cells, hs, lastAddress] at ha ⊢
  · exact ⟨fun h => ⟨Memory.wf_write _ _ _ _ (by omega) h.1, h.2⟩, ⟨rfl, rfl, rfl, rfl⟩, _, c.cgram, rfl⟩
  · exact ⟨fun h => ⟨h.1, Memory.wf_write _ _ _ _ (by omega) h.2⟩, ⟨rfl, rfl, rfl, rfl⟩, c.ddram, _, rfl⟩
  · exact ⟨fun h => ⟨Memory.wf_nil _, h.2⟩, ⟨rfl, rfl, rfl, rfl⟩, _, c.cgram, rfl⟩
  · exact ⟨fun h => ⟨h.1, Memory.wf_nil _⟩, ⟨rfl, rfl, rfl, rfl⟩, c.ddram, _, rfl⟩

/-- An advance changes AC only: to AC + 1 where the spec states it, to a free value elsewhere (20_memory.md R47). -/
theorem Controller.advance_spec (cfg : Config) (c : Controller) (n : Nat) :
    c.advance cfg n =
      { c with ac := if c.advanceStated cfg then BitVec.ofNat 7 (c.address + 1) else freeAc n } := by
  unfold Controller.advance
  split <;> rfl

/-- A mode word changes AC, the selected memory, both memories and the modes, whatever its flags (20_memory.md R48). -/
theorem Controller.modeWord_spec (initFlags : Bool) (set : Modes → Modes) (c : Controller) (n : Nat) :
    c.modeWord initFlags set n =
      { c with
        ac := freeAc n, space := freeSpace n, ddram := [], cgram := []
        modes := if initFlags then set c.modes else freeModes n } := by
  cases initFlags <;> rfl

/-- A decoded bus word is latched, with an effect that keeps what `KeepsContract` says. -/
theorem exec_decodeBus (w : BitVec 10) (i : Instr) (h : decodeBus w = .ok i) (s : State) :
    ∃ v eff, exec i s = .next (s.latch v eff) ∧ Controller.KeepsContract eff := by
  have ht : ∀ c : Controller, c.SameTimes c := fun c => ⟨rfl, rfl, rfl, rfl⟩
  have key : ∀ j : Instr, (∃ u, encodeCode j = .bus u) →
      ∃ v eff, exec j s = .next (s.latch v eff) ∧ Controller.KeepsContract eff := by
    intro j hj
    cases j
    case dataWrite d =>
      refine ⟨_, _, rfl, fun n c => ?_⟩
      obtain ⟨h1, h2, dd, cg, h3⟩ := c.store_spec s.cfg d
      rw [Controller.advance_spec, h3]
      rw [h3] at h1 h2
      exact ⟨h1, h2, id, id⟩
    case dataRead d =>
      refine ⟨_, _, rfl, fun n c => ?_⟩
      rw [Controller.advance_spec]
      exact ⟨id, ht _, id, id⟩
    case clearDisplayI => exact ⟨_, _, rfl, fun n c => ⟨fun hc => ⟨Memory.wf_nil _, hc.2⟩, ht _, id, id⟩⟩
    case returnHomeI => exact ⟨_, _, rfl, fun n c => ⟨fun hc => hc, ht _, id, id⟩⟩
    case cursorDisplayShiftI a b => exact ⟨_, _, rfl, fun n c => ⟨fun _ => Controller.memWf_empty _ rfl rfl, ht _, id, id⟩⟩
    case setCgramAddressI a => exact ⟨_, _, rfl, fun n c => ⟨fun hc => hc, ht _, id, id⟩⟩
    case setDdramAddressI a => exact ⟨_, _, rfl, fun n c => ⟨fun hc => hc, ht _, id, id⟩⟩
    case entryModeSetI a b =>
      refine ⟨_, _, rfl, fun n c => ?_⟩
      rw [entryEffect, Controller.modeWord_spec]
      exact ⟨fun _ => Controller.memWf_empty _ rfl rfl, ht _, id, id⟩
    case displayControlI a b d =>
      refine ⟨_, _, rfl, fun n c => ?_⟩
      rw [displayEffect, Controller.modeWord_spec]
      exact ⟨fun _ => Controller.memWf_empty _ rfl rfl, ht _, id, id⟩
    case functionSetI a b d =>
      refine ⟨_, _, rfl, fun n c => ?_⟩
      unfold funcsetEffect
      split
      · rw [Controller.modeWord_spec]
        exact ⟨fun _ => Controller.memWf_empty _ rfl rfl, ht _, id, id⟩
      · exact ⟨fun _ => Controller.memWf_empty _ rfl rfl, ht _, fun h => absurd h Bool.false_ne_true,
          fun h => absurd h Bool.false_ne_true⟩
    all_goals (obtain ⟨u, hu⟩ := hj; cases hu)
  apply key
  unfold decodeBus decodeByte at h
  repeat' split at h
  all_goals first | (cases h; exact ⟨_, rfl⟩) | (exact absurd h (by simp))

/-- Latching a word leaves the canonical form and the times as its effect leaves them, and a controller it makes known was
known or powered for the INIT under way (70_reset_and_hazards.md R179). -/
theorem State.latch_spec (s : State) (w : BitVec 10) (eff : Nat → Controller → Controller)
    (h : Controller.KeepsContract eff) :
    (s.ctrl.memWf → (s.latch w eff).ctrl.memWf) ∧ (s.latch w eff).ctrl.SameTimes s.ctrl ∧
      ((s.latch w eff).ctrl.known = true → s.ctrl.known = true ∨ s.ctrl.poweredForInit = true) ∧
      ((s.latch w eff).ctrl.poweredForInit = true → s.ctrl.poweredForInit = true) := by
  obtain ⟨h1, h2, h3, h4⟩ := h s.draws s.ctrl
  rw [State.latch_ctrl]
  cases hk : s.ctrl.known
  · obtain ⟨k, m, e⟩ := Controller.handshake_frame s.cfg w (s.ctrl.anyState s.draws)
    refine ⟨fun _ => ?_, ?_, fun hn => .inr ?_, fun hp => ?_⟩
    · rw [if_neg Bool.false_ne_true, e]
      exact Controller.memWf_empty _ rfl rfl
    · rw [if_neg Bool.false_ne_true, e]
      exact ⟨rfl, rfl, rfl, rfl⟩
    · rw [if_neg Bool.false_ne_true, Controller.handshake_known] at hn
      rcases hn with hn | hn
      · exact absurd (hk.symm.trans hn) Bool.false_ne_true
      · exact hn.1
    · simpa using hp
  · obtain ⟨k, m, e⟩ := Controller.handshake_frame s.cfg w (eff s.draws s.ctrl)
    refine ⟨?_, ?_, fun _ => .inl rfl, fun hp => h4 ?_⟩
    · rw [if_pos rfl, e]
      exact h1
    · rw [if_pos rfl, e]
      exact h2
    · simpa using hp

/-- A rising edge of E either finds the settling time not over, or raises E (20_memory.md R49, 40_transport.md R81). -/
theorem riseE_cases (u : State) :
    (u.env.attached = true ∧ u.ctrl.sinceEdge < u.ctrl.need ∧ riseE u = .stop .settlingViolated) ∨
    (¬ (u.env.attached = true ∧ u.ctrl.sinceEdge < u.ctrl.need) ∧ riseE u = .done { u with
      eO := true
      ctrl := { u.ctrl with gap := min u.ctrl.sinceEdge u.ctrl.up, sinceEdge := 0 } }) := by
  by_cases h : u.env.attached = true ∧ u.ctrl.sinceEdge < u.ctrl.need
  · exact .inl ⟨h.1, h.2, by unfold riseE; simp only [h, and_self, if_true]⟩
  · exact .inr ⟨h, by unfold riseE; simp only [h, if_false]⟩

/-- A falling edge of E always answers a next state: E low, and of the rest only the controller and the draws changed
(20_memory.md R43, 40_transport.md R81). -/
theorem fallE_spec (u : State) :
    ∃ c d, (fallE u).outcome = .next { u with eO := false, ctrl := c, draws := d } ∧
      (u.ctrl.memWf → c.memWf) ∧ c.sinceEdge = 0 ∧ c.need = u.neededAfterWord ∧ c.up = u.ctrl.up ∧
      (c.known = true → u.ctrl.known = true ∨ u.ctrl.poweredForInit = true) ∧
      (c.poweredForInit = true → u.ctrl.poweredForInit = true) := by
  have lost : ∃ c d, Fetched.outcome (.done u.loweredE.latchUnknown) = .next { u with eO := false, ctrl := c, draws := d } ∧
      (u.ctrl.memWf → c.memWf) ∧ c.sinceEdge = 0 ∧ c.need = u.neededAfterWord ∧ c.up = u.ctrl.up ∧
      (c.known = true → u.ctrl.known = true ∨ u.ctrl.poweredForInit = true) ∧
      (c.poweredForInit = true → u.ctrl.poweredForInit = true) :=
    ⟨_, _, rfl, fun _ => Controller.memWf_empty _ rfl rfl, rfl, rfl, rfl, fun h => absurd h Bool.false_ne_true,
      fun h => absurd h Bool.false_ne_true⟩
  have kept : ∃ c d, Fetched.outcome (.done u.loweredE) = .next { u with eO := false, ctrl := c, draws := d } ∧
      (u.ctrl.memWf → c.memWf) ∧ c.sinceEdge = 0 ∧ c.need = u.neededAfterWord ∧ c.up = u.ctrl.up ∧
      (c.known = true → u.ctrl.known = true ∨ u.ctrl.poweredForInit = true) ∧
      (c.poweredForInit = true → u.ctrl.poweredForInit = true) :=
    ⟨_, _, rfl, fun h => h, rfl, rfl, rfl, .inl, id⟩
  unfold fallE
  split
  · split
    · split
      · split
        · rename_i i hi
          obtain ⟨v, eff, h1, h2⟩ := exec_decodeBus _ i hi u.loweredE
          obtain ⟨h3, ⟨h4, h5, h6, h7⟩, h8, h9⟩ := u.loweredE.latch_spec v eff h2
          exact ⟨_, _, h1, h3, h5, h7, h4, h8, h9⟩
        · exact lost
      · exact lost
    · exact lost
  · exact kept

end Sys2Proof.Machine
end

