-- ==== Sys2Proof/Laws/PerInstr.lean ====
section
/-! SUPPORT. Per instruction, which of the two codes its word is of: the fifteen requests are request words of 20 bytes,
the ten bus words are of 2 bytes (30_encoding.md R60, R69). -/

namespace Sys2Proof.Laws.Port

open Sys2Proof

/-- Whether an instruction is a bus word. -/
def isBus : Instr → Bool
  | .init _ => false
  | .command _ _ => false
  | .writeByte _ _ => false
  | .readByte _ => false
  | .clearDisplay _ => false
  | .returnHome _ => false
  | .entryModeSet _ _ _ => false
  | .displayOnOff _ _ _ _ => false
  | .cursorDisplayShift _ _ _ => false
  | .functionSet _ _ _ _ => false
  | .setCgramAddress _ _ => false
  | .setDdramAddress _ _ => false
  | .writeTwoLines _ _ _ => false
  | .reservedD => false
  | .reservedEF _ => false
  | .clearDisplayI => true
  | .returnHomeI => true
  | .entryModeSetI _ _ => true
  | .displayControlI _ _ _ => true
  | .cursorDisplayShiftI _ _ => true
  | .functionSetI _ _ _ => true
  | .setCgramAddressI _ => true
  | .setDdramAddressI _ => true
  | .dataWrite _ => true
  | .dataRead _ => true

/-- The word of an instruction has the length of its code. -/
def Statement (i : Instr) : Prop := (encode i).length = if isBus i then 2 else 20

theorem length_bytesOfNat (n v : Nat) : (bytesOfNat n v).length = n := by
  induction n generalizing v with
  | zero => rfl
  | succ n ih => simp [bytesOfNat, ih]

theorem init (pd : BitVec 16) : Statement (.init pd) := length_bytesOfNat 20 _
theorem command (arg : Byte) (pd : BitVec 16) : Statement (.command arg pd) := length_bytesOfNat 20 _
theorem writeByte (arg : Byte) (pd : BitVec 16) : Statement (.writeByte arg pd) := length_bytesOfNat 20 _
theorem readByte (pd : BitVec 16) : Statement (.readByte pd) := length_bytesOfNat 20 _
theorem clearDisplay (pd : BitVec 16) : Statement (.clearDisplay pd) := length_bytesOfNat 20 _
theorem returnHome (pd : BitVec 16) : Statement (.returnHome pd) := length_bytesOfNat 20 _
theorem entryModeSet (incDec shift : Bool) (pd : BitVec 16) : Statement (.entryModeSet incDec shift pd) :=
  length_bytesOfNat 20 _
theorem displayOnOff (display cursor blink : Bool) (pd : BitVec 16) :
    Statement (.displayOnOff display cursor blink pd) := length_bytesOfNat 20 _
theorem cursorDisplayShift (shiftCursor dir : Bool) (pd : BitVec 16) :
    Statement (.cursorDisplayShift shiftCursor dir pd) := length_bytesOfNat 20 _
theorem functionSet (dl n f : Bool) (pd : BitVec 16) : Statement (.functionSet dl n f pd) := length_bytesOfNat 20 _
theorem setCgramAddress (arg : Byte) (pd : BitVec 16) : Statement (.setCgramAddress arg pd) :=
  length_bytesOfNat 20 _
theorem setDdramAddress (arg : Byte) (pd : BitVec 16) : Statement (.setDdramAddress arg pd) :=
  length_bytesOfNat 20 _
theorem writeTwoLines (line1 line2 : List Byte) (pd : BitVec 16) : Statement (.writeTwoLines line1 line2 pd) :=
  length_bytesOfNat 20 _
theorem reservedD : Statement .reservedD := length_bytesOfNat 20 _
theorem reservedEF (odd : Bool) : Statement (.reservedEF odd) := length_bytesOfNat 20 _
theorem clearDisplayI : Statement .clearDisplayI := length_bytesOfNat 2 _
theorem returnHomeI : Statement .returnHomeI := length_bytesOfNat 2 _
theorem entryModeSetI (incDec shift : Bool) : Statement (.entryModeSetI incDec shift) := length_bytesOfNat 2 _
theorem displayControlI (display cursor blink : Bool) : Statement (.displayControlI display cursor blink) :=
  length_bytesOfNat 2 _
theorem cursorDisplayShiftI (shiftCursor dir : Bool) : Statement (.cursorDisplayShiftI shiftCursor dir) :=
  length_bytesOfNat 2 _
theorem functionSetI (dl n f : Bool) : Statement (.functionSetI dl n f) := length_bytesOfNat 2 _
theorem setCgramAddressI (addr : BitVec 6) : Statement (.setCgramAddressI addr) := length_bytesOfNat 2 _
theorem setDdramAddressI (addr : BitVec 7) : Statement (.setDdramAddressI addr) := length_bytesOfNat 2 _
theorem dataWrite (data : Byte) : Statement (.dataWrite data) := length_bytesOfNat 2 _
theorem dataRead (data : Byte) : Statement (.dataRead data) := length_bytesOfNat 2 _

end Sys2Proof.Laws.Port
end

