-- ==== Sys2Proof/Laws/Transport.lean ====
section
/-! SUPPORT. The laws of waits and micro-programs: what fits TIMER, how long a micro-program is, how many ticks it
takes. -/

namespace Sys2Proof.Machine

open Sys2Proof

/-- A shorter wait takes no more ticks (40_transport.md R84). -/
theorem ticksOf_mono (c : Config) {a b : Nat} (h : a ≤ b) : ticksOf c a ≤ ticksOf c b :=
  Nat.div_le_div_right (by omega)

theorem fits_mono (c : Config) {a b : Nat} (h : a ≤ b) (hb : Config.fits c b) : Config.fits c a :=
  Nat.lt_of_le_of_lt (ticksOf_mono c h) hb

theorem fits_max (c : Config) {a b : Nat} (ha : Config.fits c a) (hb : Config.fits c b) : Config.fits c (max a b) := by
  rcases Nat.le_total a b with h | h
  · rwa [Nat.max_eq_right h]
  · rwa [Nat.max_eq_left h]

/-- Every wait of the requester fits TIMER (00_scope.md R8, 41_encoder.md R113). -/
theorem fits_pdNs (c : Config) (h : c.wf) (pd : BitVec 16) : Config.fits c (pdNs pd) := by
  refine fits_mono c (b := 65535000) ?_ h.2.2.1.2.2.2.2.2.2.2
  have := pd.isLt
  unfold pdNs
  omega

/-- Every settling floor fits TIMER (41_encoder.md R110). -/
theorem fits_floor (c : Config) (h : c.wf) (x : Transaction) : Config.fits c (x.floor c) := by
  obtain ⟨-, -, -, -, -, h1, h2, -⟩ := h.2.2.1
  cases x <;> simp only [Transaction.floor, settlingFloor] <;> split <;> first | exact h1 | exact h2

/-- Ticks add up over a micro-program. -/
theorem ticksOfOps_append (xs ys : List MicroOp) : ticksOfOps (xs ++ ys) = ticksOfOps xs + ticksOfOps ys := by
  induction xs with
  | nil => simp [ticksOfOps]
  | cons x xs ih => cases x <;> simp [ticksOfOps, ih] <;> omega

/-- A wait that fits TIMER takes W(d) ticks (40_transport.md R85). -/
theorem ticksOfOps_waitOps (c : Config) (d : Nat) (h : Config.fits c d) : ticksOfOps (waitOps c d) = ticksOf c d := by
  unfold waitOps
  split
  · simp_all [ticksOfOps]
  · simp only [ticksOfOps, Nat.add_zero, BitVec.toNat_ofNat]
    exact Nat.mod_eq_of_lt h

theorem waitOps_length (c : Config) (d : Nat) : (waitOps c d).length ≤ 1 := by
  unfold waitOps
  split <;> simp

theorem Transaction.ops_length (c : Config) (x : Transaction) : (x.ops c).length ≤ 7 := by
  have h := waitOps_length c c.tEH
  cases x <;> simp only [Transaction.ops, busWriteOps, busReadOps, List.length_append, List.length_cons, List.length_nil] <;>
    omega

/-- A micro-program is at most 8 micro-ops a transaction long (10_state.md R19). -/
theorem program_length (c : Config) (pd : BitVec 16) (xs : List (Transaction × Nat)) :
    (program c pd xs).length ≤ 8 * xs.length := by
  induction xs with
  | nil => simp [program]
  | cons y ys ih =>
    obtain ⟨x, d⟩ := y
    have h1 := x.ops_length c
    cases ys with
    | nil =>
      have h2 := waitOps_length c (max (max d (x.floor c)) (pdNs pd))
      simp only [program, List.length_append, List.length_cons, List.length_nil] at *
      omega
    | cons z zs =>
      have h2 := waitOps_length c (max d (x.floor c))
      simp only [program, List.length_append, List.length_cons] at *
      omega

/-- Behind a wait, what matters of the lines is the time (40_transport.md R85). -/
theorem SafeOps_waitOps (c : Config) (d : Nat) (hf : Config.fits c d) (ms : List MicroOp) (v : LineView)
    (h : SafeOps c ms { v with since := v.since + ticksOf c d * c.tTick }) : SafeOps c (waitOps c d ++ ms) v := by
  unfold waitOps
  split
  · rename_i h0
    simpa [h0] using h
  · rename_i h0
    have e : (BitVec.ofNat 32 (ticksOf c d)).toNat = ticksOf c d := by
      rw [BitVec.toNat_ofNat, Nat.mod_eq_of_lt hf]
    refine ⟨fun h1 => h0 ?_, ?_⟩
    · rw [← e, h1]
      rfl
    · rw [e]
      exact h

/-- W(d) ticks last at least d (40_transport.md R84). -/
theorem le_ticksOf_mul (c : Config) (h : 0 < c.tTick) (d : Nat) : d ≤ ticksOf c d * c.tTick := by
  unfold ticksOf
  have h1 := Nat.div_add_mod (d + c.tTick - 1) c.tTick
  have h2 := Nat.mod_lt (d + c.tTick - 1) h
  rw [Nat.mul_comm]
  omega

/-- A transaction meets the timing of the bus from settled lines on, and leaves E low with its own floor to wait for
(40_transport.md R88, R89). -/
theorem SafeOps_transaction (c : Config) (h : c.wf) (x : Transaction) (ms : List MicroOp) (v : LineView)
    (he : v.e = false) (hn : v.need ≤ v.since)
    (hs : ∀ w : LineView, w.e = false → w.since = 0 → w.need = x.floor c → SafeOps c ms w) :
    SafeOps c (x.ops c ++ ms) v := by
  have l := le_ticksOf_mul c h.1 c.tEH
  cases x with
  | write rs b =>
    simp only [Transaction.ops, busWriteOps, List.append_assoc, List.cons_append, List.nil_append, SafeOps, he,
      true_and]
    refine ⟨by omega, rfl, ?_⟩
    apply SafeOps_waitOps c _ h.2.2.1.1
    simp only [SafeOps, if_true]
    exact ⟨by omega, hs _ rfl rfl rfl⟩
  | read =>
    simp only [Transaction.ops, busReadOps, List.append_assoc, List.cons_append, List.nil_append, SafeOps, he,
      true_and]
    refine ⟨by omega, rfl, ?_⟩
    apply SafeOps_waitOps c _ h.2.2.1.1
    simp only [SafeOps, if_true, true_and]
    refine ⟨by omega, hs _ rfl rfl ?_⟩
    simp [Transaction.floor, settlingFloor]

/-- A micro-program of transactions meets the timing of the bus from settled lines on (42_session_init.md R118). -/
theorem SafeOps_program (c : Config) (h : c.wf) (pd : BitVec 16) (xs : List (Transaction × Nat))
    (hx : ∀ x ∈ xs, Config.fits c x.2) (v : LineView) (he : v.e = false) (hn : v.need ≤ v.since) :
    SafeOps c (program c pd xs) v := by
  induction xs generalizing v with
  | nil => exact ⟨he, hn⟩
  | cons y ys ih =>
    obtain ⟨x, d⟩ := y
    have hd : Config.fits c d := hx _ List.mem_cons_self
    cases ys with
    | nil =>
      simp only [program]
      apply SafeOps_transaction c h x _ v he hn
      intro w he hs hn
      rw [← List.append_nil (waitOps _ _)]
      apply SafeOps_waitOps c _ (fits_max c (fits_max c hd (fits_floor c h x)) (fits_pdNs c h pd))
      have l := le_ticksOf_mul c h.1 (max (max d (x.floor c)) (pdNs pd))
      refine ⟨he, ?_⟩
      show w.need ≤ w.since + ticksOf c (max (max d (x.floor c)) (pdNs pd)) * c.tTick
      omega
    | cons z zs =>
      simp only [program, List.append_assoc]
      apply SafeOps_transaction c h x _ v he hn
      intro w he hs hn
      apply SafeOps_waitOps c _ (fits_max c hd (fits_floor c h x))
      have l := le_ticksOf_mul c h.1 (max d (x.floor c))
      refine ih (fun q hq => hx q (List.mem_cons_of_mem _ hq)) _ he ?_
      show w.need ≤ w.since + ticksOf c (max d (x.floor c)) * c.tTick
      omega

/-- The micro-program of INIT meets the timing of the bus whatever transaction came before
(70_reset_and_hazards.md R177). -/
theorem SafeOps_initProgram (c : Config) (h : c.wf) (pd : BitVec 16) (v : LineView) (he : v.e = false)
    (hn : v.need ≤ c.tPwr) : SafeOps c (initProgram c pd) v := by
  obtain ⟨f1, f2, f3, f4, -⟩ := h.2.2.1
  have l := le_ticksOf_mul c h.1 c.tPwr
  unfold initProgram
  simp only [List.cons_append, List.nil_append, SafeOps, he, Bool.false_eq_true, if_false]
  apply SafeOps_waitOps c _ f2
  apply SafeOps_program c h
  · simp only [initTransactions, List.mem_cons, List.not_mem_nil, or_false]
    rintro x (rfl | rfl | rfl | rfl | rfl | rfl | rfl) <;> simp only <;>
      first | exact f3 | exact f4 | exact fits_mono c (Nat.zero_le _) f1
  · rfl
  · show v.need ≤ v.since + c.tTick + ticksOf c c.tPwr * c.tTick
    omega

end Sys2Proof.Machine
end

