-- ==== Sys2Proof/Tests/Slice0.lean ====
section
/-! SUPPORT. The model's own tests: expected results come from the spec's encodings, worked examples and vectors
(30_encoding.md, 43_session_ops.md, 95_test_vectors.md), and the witnesses of the hypotheses of the statements. -/

namespace Sys2Proof.Tests

open Sys2Proof Sys2Proof.Machine

/-! ## States of the tests -/

/-- A block that has been initialized and is idle. -/
def ready : State := { State.reset with session := .ready }

/-- A controller in the state INIT leaves, AC at 0x05 of DDRAM with one known cell. -/
def knownController : Controller :=
  { Controller.powerUp 0 with ac := 5, space := .ddram, ddram := [(5, 0x41)], modes := initModes, known := true }

/-- An idle block with that controller. -/
def known : State := { ready with ctrl := knownController }

/-- The same on a part whose AC counts on past the end of a row (notes/assumptions/10.md). -/
def counting : State := { known with cfg := { known.cfg with acCountsPastRow := true } }

/-- A block that runs COMMAND 0x38. -/
def running : State := ready.start 0x1 (single ready.cfg 0 (.write false 0x38))

/-- A block that is about to raise E with the word 0x38 on the lines. -/
def rising : State :=
  { running with mq := [.setE true, .wait 1, .setE false, .wait 40], dbO := 0x38 }

/-- A block that is about to lower E on the word 0x38, after a pulse long enough. -/
def falling : State :=
  { running with mq := [.setE false, .wait 40], dbO := 0x38, eO := true, ctrl := { knownController with sinceEdge := 1000 } }

/-- A block in the E-high part of a data read. -/
def reading : State :=
  { running with
    curOp := 0x3, mq := [.sample, .setE false, .wait 40], eO := true, rsO := true, rwO := true, dir := .input
    ctrl := { knownController with sinceEdge := 1000 }, env := .contract }

/-- A block about to begin a write transaction, with nothing to do after it but its wait. -/
def writing : State := ready.start 0x2 (single ready.cfg 0 (.write true 0xA5))

/-- A state with a request presented. -/
def presenting (req : BitVec 32) (s : State) : State := { s with requester := [.present ⟨req, 0⟩] }

/-- The next state of an outcome. -/
def nextOf (o : Host.Outcome State Fault Refusal) : Option State :=
  match o with
  | .next t => some t
  | .fault _ => none
  | .refused _ => none

/-- What is queued by a request in READY. -/
def queued (i : Instr) : Option (List MicroOp) := (nextOf (exec i ready)).map (·.mq)

/-- AC, the known flag and DDRAM after a bus word in READY. -/
def afterWord (i : Instr) : Option (BitVec 7 × Bool × Memory) :=
  (nextOf (exec i known)).map fun t => (t.ctrl.ac, t.ctrl.known, t.ctrl.ddram)

/-- The micro-ops of a write transaction and its wait at T_TICK = 1000 ns (40_transport.md R88). -/
def write1000 (rs : Level) (b : Byte) (w : BitVec 32) : List MicroOp :=
  [.dirOut, .drive b, .setRs rs, .setRw false, .setE true, .wait 1, .setE false, .wait w]

/-! ## WellFormed -/

/-- Lines of 8 bytes are well-formed (30_encoding.md R62). -/
theorem test_wf_two_lines : (Instr.writeTwoLines (List.replicate 8 0x20) (List.replicate 8 0x20) 0).wf = true := by
  decide

/-- A first line of 7 bytes is refused (93_implementation_defined.md U1). -/
theorem test_wf_short_line1 : (Instr.writeTwoLines (List.replicate 7 0x20) (List.replicate 8 0x20) 0).wf = false := by
  decide

/-- A second line of 9 bytes is refused (93_implementation_defined.md U1). -/
theorem test_wf_long_line2 : (Instr.writeTwoLines (List.replicate 8 0x20) (List.replicate 9 0x20) 0).wf = false := by
  decide

/-- The meaning refuses what is ill-formed, by name (93_implementation_defined.md U1). -/
theorem test_ill_formed_refused :
    (match exec (.writeTwoLines [0x20] (List.replicate 8 0x20) 0) ready with
      | .refused r => decide (r = .lineLength)
      | _ => false) = true := by decide

/-! ## Decoding: words written out from the encodings (30_encoding.md R61, R70; 95_test_vectors.md V-REQ) -/

theorem test_decode_init : decodeTableWord 32 0x00000070 = some (.init 0) := by decide
theorem test_decode_command : decodeTableWord 32 0x07D00101 = some (.command 0x01 2000) := by decide
theorem test_decode_write_byte : decodeTableWord 32 0xFFFF4102 = some (.writeByte 0x41 65535) := by decide
theorem test_decode_read_byte : decodeTableWord 32 0b00000000000000000000000000000011 = some (.readByte 0) := by decide
theorem test_decode_clear_display : decodeTableWord 32 0x0000FF04 = some (.clearDisplay 0) := by decide
theorem test_decode_return_home : decodeTableWord 32 0x00000005 = some (.returnHome 0) := by decide
theorem test_decode_entry_mode_set : decodeTableWord 32 0x000000A6 = some (.entryModeSet true false 0) := by decide
theorem test_decode_entry_mode_set_flag0 : decodeTableWord 32 0x00000016 = some (.entryModeSet false true 0) := by decide
theorem test_decode_display_on_off : decodeTableWord 32 0x00000047 = some (.displayOnOff true false false 0) := by decide
theorem test_decode_display_on_off_blink : decodeTableWord 32 0x00000017 = some (.displayOnOff false false true 0) := by
  decide
theorem test_decode_shift : decodeTableWord 32 0x00000018 = some (.cursorDisplayShift false true 0) := by decide
theorem test_decode_function_set : decodeTableWord 32 0x00000069 = some (.functionSet true true false 0) := by decide
theorem test_decode_set_cgram : decodeTableWord 32 0x0000FF0A = some (.setCgramAddress 0xFF 0) := by decide
theorem test_decode_set_ddram : decodeTableWord 32 0x0000400B = some (.setDdramAddress 0x40 0) := by decide
theorem test_decode_write_two_lines :
    decodeRequest 0x0000000C 0x202021444C524F572020204F4C4C4548 = .writeTwoLines
      [0x48, 0x45, 0x4C, 0x4C, 0x4F, 0x20, 0x20, 0x20] [0x57, 0x4F, 0x52, 0x4C, 0x44, 0x21, 0x20, 0x20] 0 := by decide
theorem test_decode_reserved_d : decodeTableWord 32 0x0000000D = some .reservedD := by decide
theorem test_decode_reserved_e : decodeTableWord 32 0x0000000E = some (.reservedEF false) := by decide
theorem test_decode_reserved_f : decodeTableWord 32 0x0000000F = some (.reservedEF true) := by decide
theorem test_decode_clear_word : decodeTableWord 10 0b0000000001 = some .clearDisplayI := by decide
theorem test_decode_home_word : decodeTableWord 10 0b0000000010 = some .returnHomeI := by decide
theorem test_decode_entry_word : decodeTableWord 10 0b0000000101 = some (.entryModeSetI false true) := by decide
theorem test_decode_display_word : decodeTableWord 10 0b0000001100 = some (.displayControlI true false false) := by decide
theorem test_decode_shift_word : decodeTableWord 10 0b0000011000 = some (.cursorDisplayShiftI true false) := by decide
theorem test_decode_function_word : decodeTableWord 10 0b0000110100 = some (.functionSetI true false true) := by decide
theorem test_decode_cgram_word : decodeTableWord 10 0b0001111111 = some (.setCgramAddressI 0x3F) := by decide
theorem test_decode_ddram_word : decodeTableWord 10 0b0011000000 = some (.setDdramAddressI 0x40) := by decide
theorem test_decode_data_write : decodeTableWord 10 0b1000000001 = some (.dataWrite 0x01) := by decide
theorem test_decode_data_read : decodeTableWord 10 0b1100111100 = some (.dataRead 0x3C) := by decide

/-- The byte 0x03 and the busy-flag read are no instruction (30_encoding.md R72, R73). -/
theorem test_decode_rejects :
    decodeBus (busWord false false 0x03) = .error (.unencodedByte 0x03) ∧
      decodeBus (busWord false true 0x00) = .error .instructionRead ∧ decode [1, 2, 3] = .error (.badLength 3) := by
  decide

/-! ## Operands: the vectors V-ENC, V-CLS, V-W of 95_test_vectors.md -/

theorem test_enc_fixed : encClear = 0x01 ∧ encHome = 0x02 := by decide
theorem test_enc_entry : encEntry true false = 0x06 ∧ encEntry false true = 0x05 := by decide
theorem test_enc_display : encDisplay true true true = 0x0F ∧ encDisplay true false false = 0x0C := by decide
theorem test_enc_shift : encShift false true = 0x14 ∧ encShift true false = 0x18 := by decide
theorem test_enc_funcset : encFuncset true false false = 0x30 ∧ encFuncset false true true = 0x2C := by decide
theorem test_enc_cgram : encCgram 0xFF = 0x7F ∧ encCgram 0x40 = 0x40 ∧ encCgram 0xC5 = 0x45 := by decide
theorem test_enc_ddram : encDdram 0xFF = 0xFF ∧ encDdram 0x80 = 0x80 ∧ encDdram 0x40 = 0xC0 := by decide
theorem test_class : byteClass 0x00 = .none ∧ byteClass 0x03 = .returnHome ∧ byteClass 0x1F = .cursorDisplayShift := by
  decide
theorem test_floor : settlingFloor Config.source false false 0x03 = 1500000 ∧
    settlingFloor Config.source false false 0x04 = 40000 ∧ settlingFloor Config.source true false 0x01 = 40000 := by decide
theorem test_ticks_300 : ticksOf { Config.source with tTick := 300 } 1000 = 4 ∧
    ticksOf { Config.source with tTick := 300 } 40000 = 134 ∧ ticksOf { Config.source with tTick := 300 } 0 = 0 := by decide

/-! ## Requests (43_session_ops.md; 95_test_vectors.md V-TR, V-PD, V-ACC) -/

theorem test_init_queue : (queued (.init 0)).map List.length = some 58 := by decide
theorem test_init_ticks : (queued (.init 0)).map ticksOfOps = some 45890 := by decide
theorem test_command : queued (.command 0x38 0) = some (write1000 false 0x38 40) := by decide
theorem test_command_clear_pd : queued (.command 0x01 2000) = some (write1000 false 0x01 2000) := by decide
theorem test_write_byte : queued (.writeByte 0xA5 0) = some (write1000 true 0xA5 40) := by decide
theorem test_read_byte : queued (.readByte 0) =
    some [.dirIn, .setRs true, .setRw true, .setE true, .wait 1, .sample, .setE false, .wait 40] := by decide
theorem test_clear_display : queued (.clearDisplay 0) = some (write1000 false 0x01 1500) := by decide
theorem test_return_home : queued (.returnHome 0) = some (write1000 false 0x02 1500) := by decide
theorem test_entry_mode_set : queued (.entryModeSet true false 0) = some (write1000 false 0x06 40) := by decide
theorem test_display_on_off : queued (.displayOnOff true false false 0) = some (write1000 false 0x0C 40) := by decide
theorem test_shift : queued (.cursorDisplayShift true true 0) = some (write1000 false 0x1C 40) := by decide
theorem test_function_set : queued (.functionSet true true false 0) = some (write1000 false 0x38 40) := by decide
theorem test_set_cgram : queued (.setCgramAddress 0xFF 0) = some (write1000 false 0x7F 40) := by decide
theorem test_set_ddram : queued (.setDdramAddress 0x05 0) = some (write1000 false 0x85 40) := by decide
set_option maxRecDepth 4000 in
theorem test_write_two_lines :
    (queued (.writeTwoLines (List.replicate 8 0x41) (List.replicate 8 0x42) 0)).map List.length = some 144 := by decide
set_option maxRecDepth 4000 in
theorem test_write_two_lines_ticks :
    (queued (.writeTwoLines (List.replicate 8 0x41) (List.replicate 8 0x42) 0)).map ticksOfOps = some 2766 := by decide
theorem test_reserved_d : (nextOf (exec .reservedD State.reset)).map (·.response) = some (some (2, 0)) := by decide
theorem test_reserved_ef : (nextOf (exec (.reservedEF true) ready)).map (·.response) = some (some (2, 0)) := by decide
theorem test_not_ready : (nextOf (exec (.command 0x01 0) State.reset)).map (·.response) = some (some (1, 0)) := by decide
theorem test_init_from_ready : (nextOf (exec (.init 0) ready)).map (·.session) = some .uninit := by decide

/-! ## Bus words (20_memory.md R45 to R48) -/

theorem test_clear_word : afterWord .clearDisplayI = some (0, true, []) := by decide
theorem test_home_word : afterWord .returnHomeI = some (0, true, [(5, 0x41)]) := by decide
/-- INIT's flags of each mode word are in force, the other modes staying (42_session_init.md R125). -/
theorem test_entry_word :
    (nextOf (exec (.entryModeSetI true false) { known with ctrl := { knownController with modes :=
      { initModes with incDec := false, shift := true, f := true } } })).map (·.ctrl.modes) = some { initModes with f := true } := by
  decide
theorem test_display_word :
    (nextOf (exec (.displayControlI true true true) { known with ctrl := { knownController with modes :=
      { initModes with display := false, f := true } } })).map (·.ctrl.modes) = some { initModes with f := true } := by decide
theorem test_shift_word : (nextOf (exec (.cursorDisplayShiftI true false) known)).map
    (fun t => (t.ctrl.known, t.ctrl.ddram)) = some (true, []) := by decide
theorem test_function_word : (nextOf (exec (.functionSetI true true false) known)).map
    (fun t => (t.ctrl.known, t.ctrl.modes)) = some (true, initModes) := by decide

/-- With other flags even the flags sent are free: 0x08 does not give display = false (20_memory.md R48). -/
theorem test_display_word_other : (nextOf (exec (.displayControlI false false false) known)).map
    (fun t => (t.ctrl.modes, t.ctrl.ac, t.ctrl.ddram)) = some (freeModes 1, freeAc 1, []) := rfl
theorem test_function_word_4bit : (nextOf (exec (.functionSetI false true false) known)).map
    (fun t => t.ctrl.known) = some false := by decide
theorem test_cgram_word : (nextOf (exec (.setCgramAddressI 0x3F) known)).map
    (fun t => (t.ctrl.ac, t.ctrl.space)) = some (0x3F, .cgram) := by decide
theorem test_ddram_word : afterWord (.setDdramAddressI 0x40) = some (0x40, true, [(5, 0x41)]) := by decide
theorem test_data_write : afterWord (.dataWrite 0x48) = some (6, true, [(5, 0x48)]) := by decide
theorem test_data_write_cgram :
    (nextOf (exec (.dataWrite 0x1F) { known with ctrl := { knownController with ac := 0x3F, space := .cgram } })).map
      (fun t => (t.ctrl.cgram, t.ctrl.ddram)) = some ([(0x3F, 0x1F)], [(5, 0x41)]) := by decide
theorem test_data_read : afterWord (.dataRead 0x41) = some (6, true, [(5, 0x41)]) := by decide

/-- The seven words of the handshake after their waits are recognised, whatever came before (42_session_init.md R123). -/
theorem test_handshake : isHandshake Config.source [(0x030, 40005000), (0x030, 5005000), (0x030, 165000), (0x038, 165000),
    (0x010, 165000), (0x00F, 165000), (0x006, 165000)] = true := by decide

/-- A power-on wait of 1 ms is not enough (42_session_init.md R123). -/
theorem test_handshake_short : isHandshake Config.source [(0x030, 1000000), (0x030, 5005000), (0x030, 165000),
    (0x038, 165000), (0x010, 165000), (0x00F, 165000), (0x006, 165000)] = false := by decide

/-- The seven words and waits, but the controller was not powered when INIT was accepted (70_reset_and_hazards.md R179):
it stays unknown. -/
theorem test_handshake_needs_power :
    let c : Controller := { Controller.powerUp 0 with
      recent := [(0x030, 40005000), (0x030, 5005000), (0x030, 165000), (0x038, 165000), (0x010, 165000), (0x00F, 165000)]
      gap := 165000 }
    (c.handshake Config.source 0x006).known = false ∧
      ({ c with poweredForInit := true }.handshake Config.source 0x006).known = true := by decide

/-- AC before the ends of the rows, and at the end of a row on a part whose AC counts on there (20_memory.md R47,
43_session_ops.md R147). -/
theorem test_advance_row_end :
    ({ knownController with ac := 0x47 }.advance { Config.source with acCountsPastRow := true } 0).ac = 0x48 ∧
    ({ knownController with ac := 0x06 }.advance Config.source 0).ac = 0x07 ∧
    ({ knownController with ac := 0x46 }.advance Config.source 0).ac = 0x47 ∧
    ({ knownController with ac := 0x07, space := .cgram }.advance Config.source 0).ac = 0x08 := by decide

/-- AC past the ends of the rows and of the memory is any value (93_implementation_defined.md U12). -/
theorem test_advance_open : ∀ a ∈ [(0x07 : BitVec 7), 0x47, 0x7F],
    { knownController with ac := a }.advance Config.source 0 = { knownController with ac := freeAc 0 } := by
  intro a h
  simp only [List.mem_cons, List.not_mem_nil, or_false] at h
  rcases h with rfl | rfl | rfl <;> rfl

/-! ## Steps -/

/-- A presented request is taken (42_session_init.md R117). -/
theorem test_step_request : (nextOf (step (presenting 0x00003801 ready))).map
    (fun t => (t.seq, t.curOp, t.requester)) = some (.run, 0x1, []) := by decide

/-- The placed request runs as the first instruction after reset, and is rejected (60_exceptions.md R156). -/
theorem test_fetch_request : (nextOf (step (State.reset.withFetchWord 32 0x00000101))).map
    (·.response) = some (some (1, 0)) := by decide

/-- The placed bus word runs as the first instruction after reset: E falls, and the controller stays unknown
(20_memory.md R50). -/
theorem test_fetch_bus_word : (nextOf (step (State.reset.withFetchWord 10 0b0000000001))).map
    (fun t => (t.eO, t.ctrl.known)) = some (false, false) := by decide

/-- The falling edge hands the word on the lines to the controller (20_memory.md R43). -/
theorem test_step_falling : (nextOf (step { falling with dbO := 0xC0 })).map
    (fun t => (t.eO, t.ctrl.ac, t.ctrl.need)) = some (false, 0x40, 40000) := by decide

/-- The sample during a data read takes the cell AC selects (20_memory.md R44). -/
theorem test_step_sample : (nextOf (step reading)).map (·.rdata) = some 0x41 := by decide

/-- A power cycle in the tick in which E falls on INIT's word: nothing is known, and INIT no longer counts
(70_reset_and_hazards.md R180). -/
theorem test_step_power_cycle :
    (nextOf (step { falling with events := [⟨false, true⟩], ctrl := { knownController with poweredForInit := true } })).map
      (fun t => (t.ctrl.known, t.ctrl.poweredForInit, t.ctrl.ddram)) = some (false, false, []) := by decide

/-- INIT accepted in a tick in which the controller is power-cycled, and in one in which it is not
(70_reset_and_hazards.md R179). -/
theorem test_step_init_power :
    (nextOf (step { presenting 0 ready with events := [⟨false, true⟩] })).map (·.ctrl.poweredForInit) = some false ∧
      (nextOf (step (presenting 0 ready))).map (·.ctrl.poweredForInit) = some true := by decide

/-- Program P4 of 95_test_vectors.md, its first two requests: rejected in ticks 0 and 1, answered in ticks 1 and 2, where
the run is over (42_session_init.md R130). -/
theorem test_observe_rejections :
    let s := { State.reset with requester := [.present ⟨0x00000101, 0⟩, .present ⟨0x0000000E, 0⟩] }
    responses 5 s = [(1, 1, 0), (2, 2, 0)] ∧ runEnd 5 s = some 2 ∧
      (observe 5 s).map (fun o => (o.lines.length, o.responses, o.words)) = some (3, [(1, 1, 0), (2, 2, 0)], []) := by
  decide

/-- A reset in a write pulse: the latched word, if any, is unknown (V-RST-3). The same pulse ended by its SET_E(0) latches
0x38. -/
theorem test_reset_in_pulse : latchedWords 1 { falling with events := [⟨true, false⟩] } = [.unknown] ∧
    latchedWords 1 falling = [.word false 0x38] := by decide

/-- Reset and a presented request in one tick: only the reset acts (60_exceptions.md R162, V-RST-4). -/
theorem test_step_reset : (nextOf (step (presenting 0 { falling with events := [⟨true, false⟩] }))).map
    (fun t => (t.eO, t.seq, t.session, t.requester.length, t.ctrl.known)) = some (false, .idle, .uninit, 1, false) := by
  decide

/-! ## The assembler (30_encoding.md R76; 95_test_vectors.md V-REQ) -/

theorem test_asm_command : assembleWord "command 0x01, pd=2000 # x".toList = some (.request 0x07D00101 0) := by decide
theorem test_asm_display : assembleWord "display_on_off 1, 0, 0".toList = some (.request 0x00000047 0) := by decide
theorem test_asm_flag_range : assemble "entry_mode_set 2, 0".toList = .malformed := by decide
theorem test_asm_two_lines : assembleWord "write_two_lines \"HELLO   \", \"WORLD!  \"".toList =
    some (.request 0x0000000C 0x202021444C524F572020204F4C4C4548) := by decide
/-- A `#` in a string is one of its characters (notes/assumptions/25.md). -/
theorem test_asm_hash_in_string : assembleWord "write_two_lines \"#1      \", [0,0,0,0,0,0,0,0]".toList =
    some (.request 0x0000000C 0x00000000000000002020202020203123) := by decide
theorem test_asm_short_line : assemble "write_two_lines \"HELLO\", \"WORLD!  \"".toList = .malformed := by decide

/-! ## States that meet the invariant -/

theorem ready_inv : Inv ready where
  cfgWf := by decide
  rspLegal := by decide
  opLegal := by decide
  mqBound := by decide
  memWf := ⟨Memory.wf_nil _, Memory.wf_nil _⟩
  needBound := by decide
  strobe := by decide
  idle := fun _ => ⟨rfl, rfl, rfl, fun _ => by decide⟩
  running := fun h => nomatch h
  session := fun h => nomatch h

theorem known_inv : Inv known where
  cfgWf := by decide
  rspLegal := by decide
  opLegal := by decide
  mqBound := by decide
  memWf := by decide
  needBound := by decide
  strobe := by decide
  idle := fun _ => ⟨rfl, rfl, rfl, fun _ => by decide⟩
  running := fun h => nomatch h
  session := fun h => nomatch h

theorem counting_inv : Inv counting where
  cfgWf := by decide
  rspLegal := known_inv.rspLegal
  opLegal := known_inv.opLegal
  mqBound := known_inv.mqBound
  memWf := known_inv.memWf
  needBound := known_inv.needBound
  strobe := known_inv.strobe
  idle := known_inv.idle
  running := fun h => nomatch h
  session := known_inv.session

theorem running_inv : Inv running where
  cfgWf := by decide
  rspLegal := by decide
  opLegal := by decide
  mqBound := by decide
  memWf := ⟨Memory.wf_nil _, Memory.wf_nil _⟩
  needBound := by decide
  strobe := by decide
  idle := fun h => nomatch h
  running := fun _ => SafeOps_program _ (by decide) _ _ (by decide) _ rfl (by decide)
  session := fun _ => by decide

theorem rising_inv : Inv rising where
  cfgWf := by decide
  rspLegal := by decide
  opLegal := by decide
  mqBound := by decide
  memWf := ⟨Memory.wf_nil _, Memory.wf_nil _⟩
  needBound := by decide
  strobe := by decide
  idle := fun h => nomatch h
  running := fun _ => by simp only [rising, SafeOps]; decide
  session := fun _ => by decide

theorem falling_inv : Inv falling where
  cfgWf := by decide
  rspLegal := by decide
  opLegal := by decide
  mqBound := by decide
  memWf := by decide
  needBound := by decide
  strobe := by decide
  idle := fun h => nomatch h
  running := fun _ => by simp only [falling, SafeOps]; decide
  session := fun _ => by decide

theorem reading_inv : Inv reading where
  cfgWf := by decide
  rspLegal := by decide
  opLegal := by decide
  mqBound := by decide
  memWf := by decide
  needBound := by decide
  strobe := by decide
  idle := fun h => nomatch h
  running := fun _ => by simp only [reading, SafeOps]; decide
  session := fun _ => by decide

theorem writing_inv : Inv writing where
  cfgWf := by decide
  rspLegal := by decide
  opLegal := by decide
  mqBound := by decide
  memWf := ⟨Memory.wf_nil _, Memory.wf_nil _⟩
  needBound := by decide
  strobe := by decide
  idle := fun h => nomatch h
  running := fun _ => SafeOps_program _ (by decide) _ _ (by decide) _ rfl (by decide)
  session := fun _ => by decide

/-! ## Witnesses: for each statement with hypotheses, a state and operands that meet all of them

A block whose wait is running, one that is about to complete, and one that samples, beside the states above. -/

/-- A block in a wait. -/
def waiting : State := { running with timer := 40, mq := [] }

/-- A block in its completion tick. -/
def completing : State := { running with mq := [] }

/-- The block about to raise E before the controller has settled. -/
def hasty : State := { rising with ctrl := { knownController with need := 40000 } }

/-- A block about to begin a read transaction. -/
def beginningRead : State := ready.start 0x3 (single ready.cfg 0 .read)

theorem beginningRead_inv : Inv beginningRead where
  cfgWf := by decide
  rspLegal := by decide
  opLegal := by decide
  mqBound := by decide
  memWf := ⟨Memory.wf_nil _, Memory.wf_nil _⟩
  needBound := by decide
  strobe := by decide
  idle := fun h => nomatch h
  running := fun _ => SafeOps_program _ (by decide) _ _ (by decide) _ rfl (by decide)
  session := fun _ => by decide

theorem witness_DecodeOfEncode : (Instr.writeTwoLines (List.replicate 8 0) (List.replicate 8 0xFF) 65535).wf = true := by
  decide

theorem witness_BusWordsEncodeBack : decodeBus 0x085 = .ok (.setDdramAddressI 5) := by decide

theorem witness_UnusedFieldsIgnored_ready : ready.session = .ready ∧ State.reset.session = .uninit := by decide

/-- In UNINIT a rejected request may differ in PD, ARG and flags too (60_exceptions.md R156). -/
theorem witness_UnusedFieldsIgnored_rejected : reqOp 0x00000001 = reqOp 0xFFFFFFF1 ∧ reqOp 0x00000001 ≠ 0x0 ∧
    ¬ State.reset.session = .ready ∧ reqPd 0x00000001 ≠ reqPd 0xFFFFFFF1 := by decide

theorem witness_UnusedFieldsIgnored :
    reqOp 0x00000026 = reqOp 0x0000FFE6 ∧ reqPd 0x00000026 = reqPd 0x0000FFE6 ∧
      reqFlag 0x00000026 0 = reqFlag 0x0000FFE6 0 ∧ reqFlag 0x00000026 1 = reqFlag 0x0000FFE6 1 := by decide

/-- At the edge of the executed opcodes: with OP = 0xD even PD may differ. -/
theorem witness_UnusedFieldsIgnored_reserved : reqOp 0x0000000D = reqOp 0xFFFFFFFD ∧ ¬ (reqOp 0x0000000D).toNat < 0xD := by
  decide

theorem witness_WaitMeetsMinimum : 0 < Config.source.tTick ∧ ticksOf Config.source 1 = 1 ∧
    ticksOf Config.source 1000 = 1 ∧ ticksOf Config.source 1001 = 2 := by decide

theorem witness_AssembledIsWellFormed : assemble "return_home".toList = .request (.returnHome 0) := by decide

theorem witness_requests_in_READY : ready.session = .ready := rfl

/-- The floors on both sides of the edge b < 0x04 (41_encoder.md R110). -/
theorem witness_OneWriteRequestsRun_floor :
    queued (.command 0x03 0) = some (write1000 false 0x03 1500) ∧ queued (.command 0x04 0) = some (write1000 false 0x04 40) := by
  decide

theorem witness_WriteTwoLinesRuns : ready.session = .ready ∧ (List.replicate 8 (0x41 : Byte)).length = 8 ∧
    (List.replicate 7 (0x42 : Byte)).length = 7 ∧ ([] : List Byte).length ≠ 8 := by decide

theorem witness_RejectedBeforeInit :
    (presenting 0x00000001 State.reset).rspErr ≠ rspReserved ∧ (presenting 0x00000001 State.reset).rst = false ∧
      (presenting 0x00000001 State.reset).seq = .idle ∧ (presenting 0x00000001 State.reset).session = .uninit ∧
      1 ≤ (reqOp 0x00000001).toNat ∧ (reqOp 0x0000000C).toNat ≤ 0xC := by decide

theorem witness_RejectedBeforeInit_request :
    (presenting 0x0000000C State.reset).requester = .present ⟨0x0000000C, 0⟩ :: [] := rfl

theorem witness_ReservedRequestsRejected :
    (presenting 0x0000000D ready).rspErr ≠ rspReserved ∧ (presenting 0x0000000D ready).rst = false ∧
      (presenting 0x0000000D ready).seq = .idle ∧
      (presenting 0x0000000D ready).requester = .present ⟨0x0000000D, 0⟩ :: [] ∧ 0xD ≤ (reqOp 0x0000000D).toNat := by decide

theorem witness_StepRunsPresentedRequest :
    (presenting 0x00000003 ready).rspErr ≠ rspReserved ∧ (presenting 0x00000003 ready).rst = false ∧
      (presenting 0x00000003 ready).seq = .idle ∧
      (presenting 0x00000003 ready).requester = .present ⟨0x00000003, 0⟩ :: [] := by decide

theorem witness_StepRunsLatchedWord :
    falling.rspErr ≠ rspReserved ∧ falling.rst = false ∧ falling.seq = .run ∧ falling.timer = 0 ∧
      falling.mq = .setE false :: [.wait 40] ∧ falling.eO = true ∧ falling.env.attached = true ∧
      falling.cfg.tEH ≤ falling.ctrl.sinceEdge + falling.cfg.tTick ∧ falling.cfg.tSetup ≤ falling.cfg.tTick ∧
      (falling.rwO = false ∧ falling.dir = .output ∧ (0x038 : BitVec 10) = busWord falling.rsO false falling.dbO) ∧
      decodeBus 0x038 = .ok (.functionSetI true true false) := by decide

/-- An idle block to which nothing is presented, and one whose requester is idle for a tick. -/
theorem witness_StepRunsPresentedRequest_idle :
    ready.rspErr ≠ rspReserved ∧ ready.rst = false ∧ ready.seq = .idle ∧ ready.presented = none ∧
      { ready with requester := [.idle, .present ⟨0, 0⟩] }.presented = none := by decide

/-- The read side: the byte sampled is the word's. -/
theorem witness_StepRunsLatchedWord_read :
    { reading with mq := [.setE false] }.rwO = true ∧ (0x300 : BitVec 10) = busWord reading.rsO true reading.rdata ∧
      decodeBus 0x300 = .ok (.dataRead 0) := by decide

/-- The premises that UnseenWordLosesController shares with StepRunsLatchedWord hold of `falling`; each of its cases holds
of a state that differs from it in one field, at the boundary. -/
theorem witness_UnseenWordLosesController :
    (0 + falling.cfg.tTick ≥ falling.cfg.tEH ∧
      { falling with cfg := { Config.source with tEH := 1001 }, ctrl := { knownController with sinceEdge := 0 } }.ctrl.sinceEdge +
        1000 < 1001) ∧
    { falling with cfg := { Config.source with tSetup := 1001 } }.cfg.tTick < 1001 ∧
    ({ falling with dir := .input }.rwO = false ∧ { falling with dir := .input }.dir = .input) ∧
    (falling.rwO = false ∧ falling.dir = .output ∧ busWord falling.rsO false 0x03 = 0x003 ∧
      decodeBus 0x003 = .error (.unencodedByte 0x03)) ∧
    ({ falling with rwO := true }.rwO = true ∧ busWord false true 0 = 0x100 ∧ decodeBus 0x100 = .error .instructionRead) := by
  decide

theorem witness_SequencerTick_wait : waiting.rspErr ≠ rspReserved ∧ waiting.rst = false ∧ waiting.seq = .run ∧
    waiting.timer ≠ 0 := by decide

theorem witness_SequencerTick_complete : completing.rspErr ≠ rspReserved ∧ completing.rst = false ∧
    completing.seq = .run ∧ completing.timer = 0 ∧ completing.mq = [] := by decide

theorem witness_SequencerTick_microOp : ∃ t, falling.timer = 0 ∧ falling.mq = .setE false :: [.wait 40] ∧
    step falling = .next t := ⟨_, rfl, rfl, rfl⟩

theorem witness_SampleReadsLines :
    reading.rspErr ≠ rspReserved ∧ reading.rst = false ∧ reading.seq = .run ∧ reading.timer = 0 ∧
      reading.mq = .sample :: [.setE false, .wait 40] ∧ reading.dir = .input ∧ reading.env = .contract ∧
      reading.rsO = true ∧ reading.rwO = true ∧ reading.eO = true ∧ reading.cfg.tSetup ≤ reading.cfg.tTick ∧
      reading.powerCycle = false ∧ reading.ctrl.known = true ∧
      Memory.read (reading.ctrl.cells reading.ctrl.space) reading.ctrl.address = some 0x41 := by decide

/-- With the reset environment, and with nobody on the lines, the sample is a draw. -/
theorem witness_SampleReadsLines_draw : { reading with env := .controller }.dir = .input ∧
    (∃ t, step { reading with env := .controller } = .next t) ∧ ∃ t, step { reading with env := .undriven } = .next t :=
  ⟨rfl, ⟨_, rfl⟩, _, rfl⟩

theorem witness_BusyBlockHoldsRequest : ∃ t, (presenting 0x00000004 waiting).seq = .run ∧
    (presenting 0x00000004 waiting).rst = false ∧ (presenting 0x00000004 waiting).presented = some ⟨0x00000004, 0⟩ ∧
    step (presenting 0x00000004 waiting) = .next t := ⟨_, rfl, rfl, rfl, rfl⟩

theorem witness_step_answers_next : ∃ t, step completing = .next t ∧ t.rspValid = true ∧ t.session = .ready :=
  ⟨_, rfl, rfl, rfl⟩

/-- SESSION changes at the acceptance and at the completion of INIT. -/
theorem witness_SessionTransitions :
    (nextOf (step (presenting 0 ready))).map (·.session) = some .uninit ∧
      (nextOf (step { completing with curOp := 0, session := .uninit })).map (·.session) = some .ready := by decide

theorem witness_ResetTakesPriority : { falling with events := [⟨true, false⟩] }.rspErr ≠ rspReserved ∧
    { falling with events := [⟨true, false⟩] }.rst = true ∧ falling.eO = true ∧ waiting.eO = false := by decide

theorem witness_Config_wf : ready.cfg.wf := by decide

theorem witness_ReservedResponseStops : { ready with rspErr := 3 }.rspErr = 3 := rfl

theorem witness_SettlingViolationStops :
    hasty.rspErr ≠ rspReserved ∧ hasty.rst = false ∧ hasty.seq = .run ∧ hasty.timer = 0 ∧
      hasty.mq = .setE true :: [.wait 1, .setE false, .wait 40] ∧ hasty.eO = false ∧ hasty.env.attached = true ∧
      hasty.ctrl.sinceEdge + hasty.cfg.tTick < hasty.ctrl.need := by decide

theorem witness_StepKeepsInv : ∃ t, Inv falling ∧ step falling = .next t := ⟨_, falling_inv, rfl⟩

theorem witness_InvNeverStops : Inv rising := rising_inv

theorem witness_LinesStableWhileStrobed : ∃ t, Inv falling ∧ step falling = .next t ∧ falling.rst = false ∧
    falling.eO = true := ⟨_, falling_inv, rfl, rfl, rfl⟩

/-- The tick in which E rises. -/
theorem witness_LinesStableWhileStrobed_rising : ∃ t, Inv rising ∧ step rising = .next t ∧ rising.rst = false ∧
    t.eO = true := ⟨_, rising_inv, rfl, rfl, rfl⟩

theorem witness_StrobeWidth : ∃ t, Inv falling ∧ step falling = .next t ∧ falling.rst = false ∧ falling.eO = true ∧
    t.eO = false := ⟨_, falling_inv, rfl, rfl, rfl, rfl⟩

theorem witness_SettlingRespected : ∃ t, Inv rising ∧ step rising = .next t ∧ rising.eO = false ∧ t.eO = true :=
  ⟨_, rising_inv, rfl, rfl, rfl⟩

theorem witness_NoContention : Inv reading ∧ reading.eO = true ∧ reading.rwO = true := ⟨reading_inv, rfl, rfl⟩

theorem witness_RequestCompletes : Inv running ∧ running.noReset ∧ running.seq = .run ∧ running.ticksLeft = 48 :=
  ⟨running_inv, fun _ h => (List.not_mem_nil h).elim, rfl, by decide⟩

/-- INIT's length holds in UNINIT too. -/
theorem witness_RequestLengths_init : State.reset.cfg.wf ∧ State.reset.timer = 0 ∧ State.reset.session = .uninit := by decide

theorem witness_RequestLengths : ready.cfg.wf ∧ ready.session = .ready ∧ ready.timer = 0 ∧
    ready.cfg.tCmd ≤ ready.cfg.tWake1 ∧ ready.cfg.tCmd ≤ ready.cfg.tInitShort ∧ ready.cfg.tCmd ≤ ready.cfg.tData ∧
    (List.replicate 8 (0x41 : Byte)).length = 8 := by decide

theorem witness_TransactionTraces_write : Inv writing ∧ writing.noReset ∧ writing.seq = .run ∧ writing.timer = 0 ∧
    writing.mq = busWriteOps writing.cfg true 0xA5 ++ [.wait 40] :=
  ⟨writing_inv, fun _ h => (List.not_mem_nil h).elim, rfl, rfl, by decide⟩

theorem witness_TransactionTraces_read : Inv beginningRead ∧ beginningRead.noReset ∧ beginningRead.seq = .run ∧
    beginningRead.timer = 0 ∧ beginningRead.mq = busReadOps beginningRead.cfg ++ [.wait 40] :=
  ⟨beginningRead_inv, fun _ h => (List.not_mem_nil h).elim, rfl, rfl, by decide⟩

theorem witness_LatchedWordsAreTheProgram : Inv writing ∧ writing.noReset ∧ writing.seq = .run :=
  ⟨writing_inv, fun _ h => (List.not_mem_nil h).elim, rfl⟩

/-- A reset in a write pulse and one in a read pulse. -/
theorem witness_LatchedWordsAreTheProgram_reset : ∀ s ∈ [falling, reading],
    { s with events := [⟨true, false⟩] }.rspErr ≠ rspReserved ∧ s.eO = true ∧
      { s with events := [⟨true, false⟩] }.rst = true := by decide

theorem witness_InitWords : Inv ready ∧ ready.seq = .idle ∧ ready.noReset :=
  ⟨ready_inv, rfl, fun _ h => (List.not_mem_nil h).elim⟩

theorem witness_WriteTwoLinesWords : Inv ready ∧ ready.seq = .idle ∧ ready.session = .ready := ⟨ready_inv, rfl, rfl⟩

/-- An idle block whose unknown controller has been powered for one tick. -/
def powered : State := { ready with ctrl := { Controller.powerUp 0 with up := 1000, sinceEdge := 1000 } }

theorem powered_inv : Inv powered where
  cfgWf := by decide
  rspLegal := by decide
  opLegal := by decide
  mqBound := by decide
  memWf := ⟨Memory.wf_nil _, Memory.wf_nil _⟩
  needBound := by decide
  strobe := by decide
  idle := fun _ => ⟨rfl, rfl, rfl, fun _ => by decide⟩
  running := fun h => nomatch h
  session := fun h => nomatch h

theorem witness_InitWakesController : Inv powered ∧ powered.events = [] ∧ powered.seq = .idle ∧
    powered.env.attached = true ∧ 0 < powered.ctrl.up := ⟨powered_inv, rfl, rfl, rfl, by decide⟩

/-- A block with a loopback data register. -/
def looped : State := { ready with env := .loopback }

theorem looped_inv : Inv looped where
  cfgWf := by decide
  rspLegal := by decide
  opLegal := by decide
  mqBound := by decide
  memWf := ⟨Memory.wf_nil _, Memory.wf_nil _⟩
  needBound := by decide
  strobe := by decide
  idle := fun _ => ⟨rfl, rfl, rfl, fun _ => by decide⟩
  running := fun h => nomatch h
  session := fun h => nomatch h

theorem witness_LoopbackRoundTrip : Inv looped ∧ looped.noReset ∧ looped.seq = .idle ∧ looped.session = .ready ∧
    looped.env = .loopback := ⟨looped_inv, fun _ h => (List.not_mem_nil h).elim, rfl, rfl, rfl⟩

/-- A part on which AC is free at the end, and one on which it is 0x48. -/
theorem witness_WriteTwoLinesFillsRows : Inv known ∧ Inv counting ∧ ∀ s ∈ [known, counting],
    s.events = [] ∧ s.seq = .idle ∧ s.session = .ready ∧ s.env.attached = true ∧ s.ctrl.known = true ∧
      s.ctrl.modes.incDec = true ∧ s.ctrl.modes.shift = false := ⟨known_inv, counting_inv, by decide⟩

/-- Two machines with different controllers and different line environments. -/
theorem witness_BlockCannotSeeController : Inv known ∧ Inv looped ∧ known.cfg = looped.cfg ∧
    known.block.withoutReads = looped.block.withoutReads ∧ known.requester = looped.requester ∧
    known.events.map TickEvent.rst = looped.events.map TickEvent.rst ∧ known.ctrl.known ≠ looped.ctrl.known :=
  ⟨known_inv, looped_inv, rfl, rfl, rfl, rfl, by decide⟩

/-- A power cycle of a known controller; a step that makes an unknown controller known, the condition met; and an INIT
accepted with the controller powered. -/
theorem witness_PowerCycleNeedsInit :
    (∃ t, step { known with events := [⟨false, true⟩] } = .next t ∧ { known with events := [⟨false, true⟩] }.powerCycle = true) ∧
    (nextOf (step (presenting 0 ready))).map (·.ctrl.poweredForInit) = some true ∧
    (nextOf (step { falling with
      dbO := 0x06
      ctrl := { Controller.powerUp 0 with
        sinceEdge := 1000, gap := 165000, poweredForInit := true
        recent := [(0x030, 40005000), (0x030, 5005000), (0x030, 165000), (0x038, 165000), (0x010, 165000),
          (0x00F, 165000)] } })).map (·.ctrl.known) = some true := ⟨⟨_, rfl, rfl⟩, by decide, by decide⟩

theorem witness_BusWordsRun : encodeCode (.dataWrite 0x48) = .bus 0x248 ∧ encodeCode (.returnHomeI) = .bus 0x002 := by
  decide

theorem witness_UnknownControllerStaysUnknown : encodeCode .clearDisplayI = .bus 0x001 ∧ ready.ctrl.known = false := by
  decide

theorem witness_controller_words : known.ctrl.known = true := rfl

theorem witness_DataWriteWord : known.ctrl.known = true ∧
    cellExists known.cfg known.ctrl.space known.ctrl.address = true ∧ known.ctrl.modes.incDec = true ∧
    known.ctrl.modes.shift = false ∧ known.ctrl.address < lastAddress known.ctrl.space := by decide

/-- The row ends, and what is none: the column before, and the same address of CGRAM (20_memory.md R42). -/
theorem witness_DataWriteWord_row_ends :
    { knownController with ac := 0x07 }.atRowEnd ∧ { knownController with ac := 0x47 }.atRowEnd ∧
      ¬ { knownController with ac := 0x46 }.atRowEnd ∧ ¬ { knownController with ac := 0x07, space := .cgram }.atRowEnd := by decide

/-- INIT's flags and others, for each mode word. -/
theorem witness_ModeWords : known.ctrl.known = true ∧ ¬ (true = true ∧ true = false) ∧
    ¬ (false = true ∧ true = true ∧ true = true) ∧ ¬ (false = true ∧ false = false) := by decide

/-- At the last address AC is open, and an address may have no cell (91_not_in_source.md N9). -/
theorem witness_DataWriteWord_edges :
    ¬ { knownController with ac := 0x7F }.address < lastAddress .ddram ∧
      { knownController with ac := 0x7E }.address < lastAddress .ddram ∧
      cellExists { Config.source with ddramCells := 0 } .ddram 5 = false := by decide

end Sys2Proof.Tests
end

section
/-! PROOF. The frame of a micro-op's tick, and how a tick moves the lines and the times (40_transport.md R81, R83). -/

namespace Sys2Proof.Machine

open Sys2Proof

/-- A power cycle empties the controller's memories, and a tick without one leaves them (20_memory.md R50). -/
theorem Controller.elapse_memWf (cfg : Config) (pc : Bool) (n : Nat) (c : Controller) (h : c.memWf) :
    (c.elapse cfg pc n).memWf := by
  cases pc
  · exact h
  · exact Controller.memWf_empty _ rfl rfl

/-- A reset leaves the memories, or empties them where it cuts a pulse (70_reset_and_hazards.md R177). -/
theorem Controller.cutPulse_memWf (cfg : Config) (e : Level) (n : Nat) (c : Controller) (h : c.memWf) :
    (c.cutPulse cfg e n).memWf := by
  cases e
  · exact h
  · exact Controller.memWf_empty _ rfl rfl

/-- A reset leaves the settling time that is needed, or asks for T_CLEAR where it cuts a pulse
(70_reset_and_hazards.md R177; notes/assumptions/17.md). -/
theorem Controller.cutPulse_need (cfg : Config) (e : Level) (n : Nat) (c : Controller) :
    (c.cutPulse cfg e n).need = if e then cfg.tClear else c.need := by
  cases e <;> rfl

/-- No settling floor is longer than T_PWR (70_reset_and_hazards.md R177). -/
theorem settlingFloor_le_tPwr (c : Config) (h : c.wf) (rs rw : Level) (b : Byte) : settlingFloor c rs rw b ≤ c.tPwr := by
  obtain ⟨-, -, -, ⟨hClear, hCmd⟩, -, -⟩ := h
  unfold settlingFloor
  split
  · exact hClear
  · exact hCmd

/-- SET_E at the level E has does nothing (40_transport.md R81). -/
theorem setE_level (u : State) : setE u.eO u = .done u := by
  unfold setE
  cases u.eO <;> rfl

/-- SET_E(1) at a low E is its rising edge (40_transport.md R81). -/
theorem setE_true_of_low {u : State} (he : u.eO = false) : setE true u = riseE u := by
  simp [setE, he]

/-- SET_E(0) at a high E is its falling edge (40_transport.md R81). -/
theorem setE_false_of_high {u : State} (he : u.eO = true) : setE false u = fallE u := by
  simp [setE, he]

/-- A rising edge that does not stop the machine leaves E high and the time since the edge 0 (40_transport.md R81). -/
theorem riseE_next {u t : State} (h : (riseE u).outcome = .next t) :
    t = { u with
      eO := true
      ctrl := { u.ctrl with gap := min u.ctrl.sinceEdge u.ctrl.up, sinceEdge := 0 } } := by
  obtain ⟨-, -, hstop⟩ | ⟨-, hdone⟩ := riseE_cases u
  · rw [hstop] at h
    cases h
  · rw [hdone] at h
    exact (Host.Outcome.next.inj h).symm

/-- SET_E(v) leaves E at v, and changes nothing else but the controller and the draws (40_transport.md R81). -/
theorem setE_frame {v : Level} {u t : State} (h : (setE v u).outcome = .next t) :
    ∃ c n, t = { u with eO := v, ctrl := c, draws := n } := by
  by_cases he : u.eO = v
  · rw [← he, setE_level] at h
    exact ⟨u.ctrl, u.draws, he ▸ (Host.Outcome.next.inj h).symm⟩
  · cases v with
    | true =>
      rw [setE_true_of_low (by simpa using he)] at h
      exact ⟨_, u.draws, riseE_next h⟩
    | false =>
      obtain ⟨c, n, hfall, -⟩ := fallE_spec u
      rw [setE_false_of_high (by simpa using he), hfall] at h
      exact ⟨c, n, (Host.Outcome.next.inj h).symm⟩

/-- A micro-op changes no more than TIMER, the lines, RDATA, the controller and the draws (40_transport.md R81). -/
theorem runMicroOp_frame {m : MicroOp} {u t : State} (h : (runMicroOp m u).outcome = .next t) :
    ∃ timer rsO rwO eO dir dbO rdata ctrl draws, t = { u with
      timer := timer, rsO := rsO, rwO := rwO, eO := eO, dir := dir, dbO := dbO, rdata := rdata
      ctrl := ctrl, draws := draws } := by
  cases m
  case setE v =>
    obtain ⟨c, n, rfl⟩ := setE_frame h
    exact ⟨_, _, _, _, _, _, _, _, _, rfl⟩
  all_goals exact ⟨_, _, _, _, _, _, _, _, _, (Host.Outcome.next.inj h).symm⟩

/-- A settling time that is over stays over. -/
theorem State.settled_beginTick (s : State) (h : s.ctrl.need ≤ s.ctrl.sinceEdge) :
    s.beginTick.ctrl.need ≤ s.beginTick.ctrl.sinceEdge := by
  simp
  omega

/-- The start of a tick adds T_TICK to the time since the last edge of E, and leaves the lines. -/
theorem State.lineView_beginTick (s : State) :
    s.beginTick.lineView = { s.lineView with since := s.lineView.since + s.cfg.tTick } := by
  simp [State.lineView]
  omega

/-- A tick of a wait moves one T_TICK from TIMER to the time since the last edge of E. -/
theorem State.lineView_waitTick (s : State) (ht : s.timer ≠ 0) :
    (s.beginTick.withTimer (s.timer - 1)).lineView = s.lineView := by
  have hcount : s.timer.toNat = (s.timer - 1).toNat + 1 := by bv_omega
  have hsince : s.ctrl.sinceEdge + s.cfg.tTick + (s.timer - 1).toNat * s.cfg.tTick =
      s.ctrl.sinceEdge + s.timer.toNat * s.cfg.tTick := by
    rw [hcount, Nat.succ_mul]
    omega
  simp only [State.lineView, State.withTimer_ctrl, State.withTimer_timer, State.withTimer_cfg, State.beginTick_ctrl,
    State.beginTick_cfg, Controller.elapse_sinceEdge, Controller.elapse_need, hsince]
  rfl

/-- With the block driving the data lines exactly when RW = 0, the settling time after the word on the lines is its
floor (41_encoder.md R110), and a read needs the same time whatever its byte. -/
theorem State.neededAfterWord_of_strobe (u : State) (h : u.dir = if u.rwO then Dir.input else Dir.output) :
    u.neededAfterWord = settlingFloor u.cfg u.rsO u.rwO u.dbO := by
  cases hrw : u.rwO
  · have hdir : u.dir = .output := by simpa [hrw] using h
    simp [State.neededAfterWord, State.wordOnLines, hrw, hdir]
  · simp [State.neededAfterWord, State.wordOnLines, hrw, settlingFloor]

end Sys2Proof.Machine
end

section
/-! PROOF. The micro-programs of the requests: each starts from the lines of an idle block (42_session_init.md R118). -/

namespace Sys2Proof.Machine

open Sys2Proof

/-- A micro-program that a request with opcode `op` may start with: it fits MQ, and it meets the timing of the bus from
every low E on, INIT's whatever came before, any other's once the last settling time is over (10_state.md R19,
70_reset_and_hazards.md R177). -/
structure StartsSafely (c : Config) (op : BitVec 4) (ms : List MicroOp) : Prop where
  length : ms.length ≤ 144
  safe : ∀ v : LineView, v.e = false → v.need ≤ c.tPwr → (op ≠ 0x0 → v.need ≤ v.since) → SafeOps c ms v

/-- The micro-program of INIT (42_session_init.md R123). -/
theorem startsSafely_init (c : Config) (h : c.wf) (pd : BitVec 16) : StartsSafely c 0x0 (initProgram c pd) where
  length := by
    have hwait := waitOps_length c c.tPwr
    have hprogram := program_length c pd (initTransactions c)
    have hseven : (initTransactions c).length = 7 := rfl
    simp only [initProgram, List.length_append, List.length_cons, List.length_nil]
    omega
  safe v he hneed _ := SafeOps_initProgram c h pd v he hneed

/-- The micro-program of at most 18 transactions whose stated waits fit TIMER (42_session_init.md R118). -/
theorem startsSafely_program (c : Config) (h : c.wf) (op : BitVec 4) (hop : op ≠ 0x0) (pd : BitVec 16)
    (xs : List (Transaction × Nat)) (hlen : xs.length ≤ 18) (hfits : ∀ x ∈ xs, Config.fits c x.2) :
    StartsSafely c op (program c pd xs) where
  length := by
    have hprogram := program_length c pd xs
    omega
  safe v he _ hsettled := SafeOps_program c h pd xs hfits v he (hsettled hop)

/-- A request that states no wait states one that fits TIMER. -/
theorem fits_zero (c : Config) (h : c.wf) : Config.fits c 0 := by
  obtain ⟨-, -, ⟨hEH, -⟩, -⟩ := h
  exact fits_mono c (Nat.zero_le _) hEH

/-- The micro-program of one transaction (43_session_ops.md R135). -/
theorem startsSafely_single (c : Config) (h : c.wf) (op : BitVec 4) (hop : op ≠ 0x0) (pd : BitVec 16) (x : Transaction) :
    StartsSafely c op (single c pd x) :=
  startsSafely_program c h op hop pd [(x, 0)] (by simp) (by simpa using fits_zero c h)

/-- The micro-program of WRITE_TWO_LINES: 18 transactions (43_session_ops.md R147). -/
theorem startsSafely_lines (c : Config) (h : c.wf) (pd : BitVec 16) (line1 line2 : List Byte) (h1 : line1.length = rowLen)
    (h2 : line2.length = rowLen) : StartsSafely c 0xC (program c pd (lineTransactions c line1 line2)) := by
  have hzero := fits_zero c h
  have hdata : Config.fits c c.tData := by
    obtain ⟨-, -, ⟨-, -, -, -, hdata, -⟩, -⟩ := h
    exact hdata
  refine startsSafely_program c h 0xC (by decide) pd _ ?_ fun x hx => ?_
  · simp [lineTransactions, h1, h2, rowLen]
  · simp only [lineTransactions, List.cons_append, List.mem_cons, List.mem_append, List.mem_map] at hx
    obtain rfl | ⟨b, -, rfl⟩ | rfl | ⟨b, -, rfl⟩ := hx
    · exact hzero
    · exact hdata
    · exact hzero
    · exact hdata

/-- WRITE_TWO_LINES with two lines of 8 bytes is not refused (43_session_ops.md R147). -/
theorem exec_writeTwoLines {line1 line2 : List Byte} (pd : BitVec 16) (s : State) (h1 : line1.length = rowLen)
    (h2 : line2.length = rowLen) : exec (.writeTwoLines line1 line2 pd) s =
      .next (s.accept 0xC (program s.cfg pd (lineTransactions s.cfg line1 line2))) :=
  if_pos ⟨h1, h2⟩

/-- The request of a request word reaches the acceptance check, with a micro-program it may start with if its opcode is
one that is executed (42_session_init.md R117, R118). -/
theorem exec_decodeRequest_startsSafely (req : BitVec 32) (lb : BitVec 128) (s : State) (h : s.cfg.wf) :
    ∃ op ms, exec (decodeRequest req lb) s = .next (s.accept op ms) ∧
      (op.toNat < 0xD → StartsSafely s.cfg op ms) := by
  unfold decodeRequest
  split
  case h_1 => -- INIT
    exact ⟨_, _, rfl, fun _ => startsSafely_init _ h _⟩
  case h_13 => -- WRITE_TWO_LINES
    have h1 : (lbLine1 lb).length = rowLen := by simp [lbLine1, rowLen]
    have h2 : (lbLine2 lb).length = rowLen := by simp [lbLine2, rowLen]
    exact ⟨_, _, exec_writeTwoLines _ s h1 h2, fun _ => startsSafely_lines _ h _ _ _ h1 h2⟩
  case h_14 => -- OP = 0xD
    exact ⟨0xD, [], rfl, fun hop => absurd hop (by decide)⟩
  case h_15 => -- OP = 0xE and 0xF
    refine ⟨_, [], rfl, fun hop => absurd hop ?_⟩
    split <;> decide
  all_goals exact ⟨_, _, rfl, fun _ => startsSafely_single _ h _ (by decide) _ _⟩

end Sys2Proof.Machine
end

section
/-! PROOF. Every step keeps the invariant (10_state.md R19): one lemma for each thing a tick can be. -/

namespace Sys2Proof.Machine

open Sys2Proof

/-- What a tick of a running block that neither resets nor completes it leaves of `s`: the parameters, the request, the
response code, no longer an MQ, memories in canonical form and no settling time above T_PWR. -/
structure RunsOn (s t : State) : Prop where
  cfg : t.cfg = s.cfg
  rspErr : t.rspErr = s.rspErr
  curOp : t.curOp = s.curOp
  session : t.session = s.session
  seq : t.seq = s.seq
  mq : t.mq.length ≤ s.mq.length
  memWf : t.ctrl.memWf
  need : t.ctrl.need ≤ s.cfg.tPwr

/-- A tick of a running block keeps the invariant if the micro-program left meets the timing from the new lines on, and
the data lines have the direction a high E needs. -/
theorem Inv.of_runsOn {s t : State} (hi : Inv s) (hq : s.seq = .run) (h : RunsOn s t)
    (hstrobe : t.eO = true → t.dir = (if t.rwO then Dir.input else Dir.output))
    (hsafe : SafeOps s.cfg t.mq t.lineView) : Inv t where
  cfgWf := h.cfg ▸ hi.cfgWf
  rspLegal := h.rspErr ▸ hi.rspLegal
  opLegal := h.curOp ▸ hi.opLegal
  mqBound := h.mq.trans hi.mqBound
  memWf := h.memWf
  needBound := h.cfg ▸ h.need
  strobe := hstrobe
  idle hidle := by
    rw [h.seq, hq] at hidle
    cases hidle
  running _ := h.cfg ▸ hsafe
  session hrun := by
    rw [h.session, h.curOp]
    exact hi.session hq

/-- The tick of a wait keeps the invariant (40_transport.md R83). -/
theorem Inv.waitTick {s : State} (hi : Inv s) (hq : s.seq = .run) (ht : s.timer ≠ 0) :
    Inv (s.beginTick.withTimer (s.timer - 1)) := by
  refine hi.of_runsOn hq ⟨rfl, rfl, rfl, rfl, rfl, le_rfl, Controller.elapse_memWf _ _ _ _ hi.memWf, ?_⟩ hi.strobe ?_
  · simpa using hi.needBound
  · rw [State.lineView_waitTick s ht]
    exact hi.running hq

/-- The completion tick keeps the invariant: at the end of a micro-program E is low and the settling time is over
(42_session_init.md R118, R120). -/
theorem Inv.completionTick {s : State} (hi : Inv s) (hq : s.seq = .run) (ht : s.timer = 0) (hm : s.mq = []) :
    Inv s.beginTick.complete := by
  have hsafe := hi.running hq
  rw [hm] at hsafe
  obtain ⟨he, hsettled⟩ := hsafe
  have hsettled : s.ctrl.need ≤ s.ctrl.sinceEdge := by simpa [State.lineView, ht] using hsettled
  exact {
    cfgWf := hi.cfgWf
    rspLegal := by simp [State.complete, rspOk, rspReserved]
    opLegal := hi.opLegal
    mqBound := hi.mqBound
    memWf := Controller.elapse_memWf _ _ _ _ hi.memWf
    needBound := by simpa using hi.needBound
    strobe := hi.strobe
    idle := fun _ => ⟨hm, ht, he, fun _ => s.settled_beginTick hsettled⟩
    running := fun hrun => nomatch hrun
    session := fun hrun => nomatch hrun }

/-- The tick of a reset keeps the invariant: the block is idle in UNINIT with E low (70_reset_and_hazards.md R176, R177). -/
theorem Inv.resetTick {s : State} (hi : Inv s) : Inv s.beginTick.resetAction where
  cfgWf := hi.cfgWf
  rspLegal := by simp [rspReserved]
  opLegal := by simp
  mqBound := by simp
  memWf := Controller.cutPulse_memWf _ _ _ _ (Controller.elapse_memWf _ _ _ _ hi.memWf)
  needBound := by
    obtain ⟨-, -, -, ⟨hClear, -⟩, -, -⟩ := hi.cfgWf
    simp only [State.resetAction_ctrl, Controller.cutPulse_need]
    split
    · exact hClear
    · simpa using hi.needBound
  strobe he := nomatch he
  idle _ := ⟨rfl, rfl, rfl, fun hready => nomatch hready⟩
  running hrun := nomatch hrun
  session hrun := nomatch hrun

/-- A tick of an idle block that is presented nothing keeps the invariant (70_reset_and_hazards.md R178). -/
theorem Inv.quietTick {s : State} (hi : Inv s) (hq : s.seq = .idle) : Inv s.beginTick where
  cfgWf := hi.cfgWf
  rspLegal := hi.rspLegal
  opLegal := hi.opLegal
  mqBound := hi.mqBound
  memWf := Controller.elapse_memWf _ _ _ _ hi.memWf
  needBound := by simpa using hi.needBound
  strobe := hi.strobe
  idle _ := by
    obtain ⟨hm, ht, he, hsettled⟩ := hi.idle hq
    exact ⟨hm, ht, he, fun hready => s.settled_beginTick (hsettled hready)⟩
  running hrun := by cases hq.symm.trans hrun
  session hrun := by cases hq.symm.trans hrun

/-- What the start of a micro-op's tick leaves of a running block. -/
theorem Inv.runsOn_beginTick {s : State} (hi : Inv s) {m : MicroOp} {rest : List MicroOp} (hm : s.mq = m :: rest) :
    RunsOn s (s.beginTick.withMq rest) :=
  ⟨rfl, rfl, rfl, rfl, rfl, by simp [hm], Controller.elapse_memWf _ _ _ _ hi.memWf, by simpa using hi.needBound⟩

section MicroOpTicks

variable {s t : State} (hi : Inv s) (hq : s.seq = .run) (ht : s.timer = 0) {m : MicroOp} {rest : List MicroOp}
  (hm : s.mq = m :: rest)

include hi hq hm

/-- A tick that changes RS, RW, the direction or the data lines while E is low keeps the invariant (40_transport.md R92). -/
theorem Inv.lineTick (rs rw : Level) (dir : Dir) (db : Byte) (he : s.eO = false)
    (hsafe : SafeOps s.cfg rest
      { s.lineView with rs := rs, rw := rw, dir := dir, db := db, since := s.lineView.since + s.cfg.tTick }) :
    Inv { s.beginTick.withMq rest with rsO := rs, rwO := rw, dir := dir, dbO := db } := by
  refine hi.of_runsOn hq { hi.runsOn_beginTick hm with } (fun he' => ?_) ?_
  · cases he.symm.trans he'
  · show SafeOps s.cfg rest { s.beginTick.lineView with rs := rs, rw := rw, dir := dir, db := db }
    rw [State.lineView_beginTick]
    exact hsafe

/-- A tick that changes no line, that of a SAMPLE or of a SET_E without an edge, keeps the invariant. -/
theorem Inv.keptLinesTick (rdata : Byte) (draws : Nat)
    (hsafe : SafeOps s.cfg rest { s.lineView with since := s.lineView.since + s.cfg.tTick }) :
    Inv { s.beginTick.withMq rest with rdata := rdata, draws := draws } := by
  refine hi.of_runsOn hq { hi.runsOn_beginTick hm with } hi.strobe ?_
  show SafeOps s.cfg rest s.beginTick.lineView
  rw [State.lineView_beginTick]
  exact hsafe

include ht

/-- The tick that loads a wait keeps the invariant: this tick is one of its n (40_transport.md R83). -/
theorem Inv.loadWaitTick (n : BitVec 32) (hn : n ≠ 0)
    (hsafe : SafeOps s.cfg rest { s.lineView with since := s.lineView.since + n.toNat * s.cfg.tTick }) :
    Inv ((s.beginTick.withMq rest).withTimer (n - 1)) := by
  refine hi.of_runsOn hq { hi.runsOn_beginTick hm with } hi.strobe ?_
  have hview : ((s.beginTick.withMq rest).withTimer (n - 1)).lineView =
      ({ s with timer := n }).lineView := State.lineView_waitTick { s with timer := n } hn
  rw [hview]
  simpa [State.lineView, ht] using hsafe

/-- The tick of a rising edge keeps the invariant: the data lines have the direction the read or write needs
(40_transport.md R93). -/
theorem Inv.riseTick (hdir : s.dir = (if s.rwO then Dir.input else Dir.output))
    (hsafe : SafeOps s.cfg rest { s.lineView with e := true, since := 0 })
    (h : (riseE (s.beginTick.withMq rest)).outcome = .next t) : Inv t := by
  rw [riseE_next h]
  refine hi.of_runsOn hq { hi.runsOn_beginTick hm with } (fun _ => hdir) ?_
  simpa [State.lineView, ht] using hsafe

/-- The tick of a falling edge keeps the invariant: the word on the lines is a word of the block, whose settling time is
its floor (20_memory.md R49, 41_encoder.md R110). -/
theorem Inv.fallTick (he : s.eO = true)
    (hsafe : SafeOps s.cfg rest
      { s.lineView with e := false, since := 0, need := settlingFloor s.cfg s.rsO s.rwO s.dbO })
    (h : (fallE (s.beginTick.withMq rest)).outcome = .next t) : Inv t := by
  obtain ⟨c, n, hfall, hmem, hsince, hneed, -⟩ := fallE_spec (s.beginTick.withMq rest)
  have hmem : c.memWf := hmem (hi.runsOn_beginTick hm).memWf
  have hneed : c.need = settlingFloor s.cfg s.rsO s.rwO s.dbO :=
    hneed.trans (State.neededAfterWord_of_strobe (s.beginTick.withMq rest) (hi.strobe he))
  have hbound : c.need ≤ s.cfg.tPwr := hneed ▸ settlingFloor_le_tPwr _ hi.cfgWf _ _ _
  rw [hfall] at h
  cases h
  refine hi.of_runsOn hq { hi.runsOn_beginTick hm with memWf := hmem, need := hbound } (fun he' => nomatch he') ?_
  simpa [State.lineView, ht, hsince, hneed] using hsafe

end MicroOpTicks

/-- The tick of a micro-op keeps the invariant: what the micro-program meets from the old lines on, the rest of it meets
from the new ones (40_transport.md R81, R83, R92, R93). -/
theorem Inv.microOpTick {s t : State} (hi : Inv s) (hq : s.seq = .run) (ht : s.timer = 0) {m : MicroOp}
    {rest : List MicroOp} (hm : s.mq = m :: rest)
    (h : (runMicroOp m (s.beginTick.withMq rest)).outcome = .next t) : Inv t := by
  have hsafe := hi.running hq
  rw [hm] at hsafe
  cases m with
  | dirOut | dirIn | drive _ | setRs _ | setRw _ =>
    obtain ⟨he, hsafe⟩ := hsafe
    cases h
    exact hi.lineTick hq hm _ _ _ _ he hsafe
  | sample =>
    obtain ⟨-, -, hsafe⟩ := hsafe
    cases h
    exact hi.keptLinesTick hq hm _ _ hsafe
  | wait n =>
    obtain ⟨hn, hsafe⟩ := hsafe
    cases h
    exact hi.loadWaitTick hq ht hm n hn hsafe
  | setE v =>
    cases v with
    | true =>
      obtain ⟨he, -, hdir, hsafe⟩ := hsafe
      rw [runMicroOp, setE_true_of_low (u := s.beginTick.withMq rest) he] at h
      exact hi.riseTick hq ht hm hdir hsafe h
    | false =>
      rw [runMicroOp] at h
      by_cases he : s.lineView.e = true
      · rw [SafeOps, if_pos he] at hsafe
        rw [setE_false_of_high (u := s.beginTick.withMq rest) he] at h
        exact hi.fallTick hq ht hm he hsafe.2 h
      · rw [SafeOps, if_neg he] at hsafe
        have hlow : (s.beginTick.withMq rest).eO = false := Bool.eq_false_of_not_eq_true he
        rw [← hlow, setE_level] at h
        cases h
        exact hi.keptLinesTick hq hm _ _ hsafe

/-- The tick in which a request starts keeps the invariant: its micro-program may start from the lines of an idle block,
and only INIT starts in UNINIT (42_session_init.md R117, R118). -/
theorem Inv.startTick {s : State} (hi : Inv s) (hq : s.seq = .idle) {op : BitVec 4} {ms : List MicroOp}
    (hop : op.toNat < 0xD) (hready : op = 0x0 ∨ s.session = .ready) (hms : StartsSafely s.cfg op ms) :
    Inv (s.beginTick.takeRequest.start op ms) := by
  obtain ⟨-, ht, he, hsettled⟩ := hi.idle hq
  refine
    { cfgWf := hi.cfgWf
      rspLegal := hi.rspLegal
      opLegal := hop
      mqBound := hms.length
      memWf := by simpa using Controller.elapse_memWf _ _ _ _ hi.memWf
      needBound := by simpa using hi.needBound
      strobe := hi.strobe
      idle := fun hidle => nomatch hidle
      running := fun _ => hms.safe _ he (by simpa [State.lineView] using hi.needBound) fun h0 => ?_
      session := fun _ => ?_ }
  · have hover := s.settled_beginTick (hsettled (hready.resolve_left h0))
    simpa [State.lineView, ht] using hover
  · by_cases h0 : op = 0x0
    · simp [h0]
    · simp [hready.resolve_left h0]

/-- The tick in which a request is rejected keeps the invariant: it changes the response only (60_exceptions.md R155). -/
theorem Inv.raiseTick {s : State} (hi : Inv s) (hq : s.seq = .idle) {e : BitVec 2} (he : e ≠ rspReserved) :
    Inv (s.beginTick.takeRequest.raise e) :=
  { hi.quietTick hq with rspLegal := he }

/-- The tick in which an idle block takes a request keeps the invariant (42_session_init.md R117). -/
theorem Inv.requestTick {s t : State} (hi : Inv s) (hq : s.seq = .idle) {r : Request}
    (h : exec (decodeRequest r.req r.lb) s.beginTick.takeRequest = .next t) : Inv t := by
  obtain ⟨op, ms, hexec, hms⟩ := exec_decodeRequest_startsSafely r.req r.lb s.beginTick.takeRequest hi.cfgWf
  cases hexec.symm.trans h
  obtain ⟨-, hrej⟩ | ⟨-, -, -, hrej⟩ | ⟨hop, hready, hstart⟩ := State.accept_cases s.beginTick.takeRequest op ms
  · rw [hrej]
    exact hi.raiseTick hq (by decide)
  · rw [hrej]
    exact hi.raiseTick hq (by decide)
  · rw [hstart]
    exact hi.startTick hq hop hready (hms hop)

end Sys2Proof.Machine

namespace Sys2Proof.Proofs

open Sys2Proof Sys2Proof.Machine

/-- Settles O34, by what the tick is: a reset, a tick of a wait, the completion, a micro-op, a tick of an idle block
without a request or with one. -/
theorem stepKeepsInv : Obligations.StepKeepsInv := by
  intro s t hi h
  obtain ⟨-, ⟨-, rfl⟩ | ⟨-, hq, ht, rfl⟩ | ⟨-, hq, ht, hm, rfl⟩ | ⟨m, rest, -, hq, ht, hm, hop⟩ | ⟨-, hq, -, rfl⟩ |
    ⟨r, -, hq, -, hreq⟩⟩ := step_cases h
  · exact hi.resetTick
  · exact hi.waitTick hq ht
  · exact hi.completionTick hq ht hm
  · exact hi.microOpTick hq ht hm hop
  · exact hi.quietTick hq
  · exact hi.requestTick hq hreq

/-- Settles O35: the reset state is idle in UNINIT, under the source's parameters (notes/assumptions/1.md to 4.md). -/
theorem invAtReset : Obligations.InvAtReset where
  cfgWf := by decide
  rspLegal := by decide
  opLegal := by decide
  mqBound := by decide
  memWf := Controller.memWf_empty _ rfl rfl
  needBound := Nat.zero_le _
  strobe he := nomatch he
  idle _ := ⟨rfl, rfl, rfl, fun hready => nomatch hready⟩
  running hrun := nomatch hrun
  session hrun := nomatch hrun

end Sys2Proof.Proofs
end

section
/-! PROOF. What a tick leaves of the response, the parameters and the environment (10_state.md R30, R35). -/

namespace Sys2Proof.Machine

open Sys2Proof

/-- The acceptance check changes neither the parameters nor who drives the data lines. -/
theorem State.accept_cfg_env (s : State) (op : BitVec 4) (ms : List MicroOp) :
    (s.accept op ms).cfg = s.cfg ∧ (s.accept op ms).env = s.env := by
  obtain ⟨-, h⟩ | ⟨-, -, -, h⟩ | ⟨-, -, h⟩ := s.accept_cases op ms <;> rw [h] <;> exact ⟨rfl, rfl⟩

/-- The levels on the data lines where the contract gives them: during a data read they are the cell AC selects, where
its content is known (20_memory.md R44). -/
theorem State.dbI_of_contract (s : State) {b : Byte} (hdir : s.dir = .input) (henv : s.env = .contract)
    (hrs : s.rsO = true) (hrw : s.rwO = true) (he : s.eO = true) (hsetup : s.cfg.tSetup ≤ s.cfg.tTick)
    (hknown : s.ctrl.known = true) (hcell : Memory.read (s.ctrl.cells s.ctrl.space) s.ctrl.address = some b) :
    s.dbI = b := by
  simp [State.dbI, State.dataLines, State.drivenByController, State.setupMet, hdir, henv, hrs, hrw, he, hsetup, hknown, hcell]

/-- The levels on the data lines are DB_O while the block drives them (10_state.md R28). -/
theorem State.dbI_of_output (s : State) (hdir : s.dir = .output) : s.dbI = s.dbO := by
  simp [State.dbI, State.dataLines, hdir]

/-- A loopback returns the byte last driven (40_transport.md R94). -/
theorem State.dbI_of_loopback (s : State) (hdir : s.dir = .input) (henv : s.env = .loopback) : s.dbI = s.dbO := by
  simp [State.dbI, State.dataLines, hdir, henv]

/-- A read is a draw with an attached controller under no law, and with nobody on the lines (20_memory.md R44,
92_eei_decisions.md D28, D29). -/
theorem State.dbI_of_draw (s : State) (hdir : s.dir = .input) (henv : s.env = .controller ∨ s.env = .undriven) :
    s.dbI = Config.freeByte s.draws := by
  obtain henv | henv := henv <;> simp [State.dbI, State.dataLines, hdir, henv]

end Sys2Proof.Machine
end

section
/-! PROOF. The pins: a list without repetition, zipped, is a map from its entries (10_state.md R32, R35). -/

namespace Sys2Proof.Machine

open Sys2Proof

/-- Looking up an entry of a list without repetition among its pairs with another list finds the partner. -/
theorem lookup_zip_of_nodup {α β : Type} [BEq α] [LawfulBEq α] {xs : List α} (hx : xs.Nodup) {ys : List β} {i : Nat} {x : α}
    {y : β} (hxi : xs[i]? = some x) (hyi : ys[i]? = some y) : (xs.zip ys).lookup x = some y := by
  induction xs generalizing ys i with
  | nil => simp at hxi
  | cons a xs ih =>
    obtain ⟨ha, hx⟩ := List.nodup_cons.1 hx
    cases ys with
    | nil => simp at hyi
    | cons b ys =>
      cases i with
      | zero =>
        obtain rfl : a = x := by simpa using hxi
        simpa using hyi
      | succ i =>
        have hxi : xs[i]? = some x := by simpa using hxi
        have hne : (x == a) = false := beq_false_of_ne fun h => ha (h ▸ List.mem_of_getElem? hxi)
        rw [List.zip_cons_cons, List.lookup_cons, hne]
        exact ih hx hxi (by simpa using hyi)

/-- The physical line of role `i` carries the level of pin `i` (10_state.md R32). -/
theorem State.lookup_physicalLines (s : State) (h : s.cfg.wf) {i : Nat} {l : Option Level} (hp : s.pins[i]? = some l) :
    s.cfg.pinMap[i]?.bind (List.lookup · s.physicalLines) = some l := by
  obtain ⟨-, -, -, -, ⟨hlen, hnodup⟩, -⟩ := h
  have hpins : s.pins.length = 11 := by simp [State.pins]
  have hi : i < s.cfg.pinMap.length := by
    obtain ⟨hi, -⟩ := List.getElem?_eq_some_iff.1 hp
    omega
  have hline := List.getElem?_eq_getElem hi
  rw [hline, Option.bind_some]
  exact lookup_zip_of_nodup hnodup hline hp

/-- Pin 3 + i is data line i (10_state.md R32). -/
theorem State.pins_data (s : State) {i : Nat} (hi : i < 8) : s.pins[3 + i]? = some (s.dataPin i) := by
  simp [State.pins, hi, Nat.add_comm 3 i]

/-- A data line is driven to its bit of DB_O exactly while DIR = 1 (10_state.md R32). -/
theorem State.dataPin_eq (s : State) (i : Nat) :
    s.dataPin i = if s.dir = .output then some (s.dbO.getLsbD i) else none := by
  unfold State.dataPin
  cases s.dir <;> rfl

end Sys2Proof.Machine
end

section
/-! PROOF. The statements about the state (10_state.md). -/

namespace Sys2Proof.Proofs

open Sys2Proof Sys2Proof.Machine

/-- Settles O23, by who sets the data lines. -/
theorem sampleReadsLines : Obligations.SampleReadsLines := by
  intro s rest hr hrst hq ht hm
  let u := s.beginTick.withMq rest
  refine ⟨_, step_microOp s hr hrst hq ht .sample rest hm, u.dbI_of_output, u.dbI_of_loopback,
    fun hdir henv => ⟨u.dbI_of_draw hdir henv, rfl⟩, ?_⟩
  intro b hdir henv hrs hrw he hsetup hpower hknown hcell
  have hctrl : u.ctrl = { s.ctrl with up := s.ctrl.up + s.cfg.tTick, sinceEdge := s.ctrl.sinceEdge + s.cfg.tTick } := by
    rw [← Controller.elapse_quiet _ s.draws, ← hpower]
    rfl
  refine u.dbI_of_contract hdir henv hrs hrw he hsetup ?_ ?_
  · rw [hctrl]
    exact hknown
  · rw [hctrl]
    exact hcell

/-- Settles O27, by what the tick is: a completion and a rejection answer, no other tick does. -/
theorem responsePulse : Obligations.ResponsePulse := by
  intro s t h
  obtain ⟨-, ⟨hrst, rfl⟩ | ⟨hrst, hq, ht, rfl⟩ | ⟨hrst, hq, ht, hm, rfl⟩ | ⟨m, rest, hrst, hq, ht, hm, hop⟩ |
    ⟨hrst, hq, hp, rfl⟩ | ⟨r, hrst, hq, hp, hreq⟩⟩ := step_cases h
  · exact ⟨iff_of_false Bool.false_ne_true (by simp [hrst]), by simp [hrst], fun hv => nomatch hv⟩
  · refine ⟨iff_of_false Bool.false_ne_true ?_, fun _ _ => ⟨rfl, rfl⟩, fun hv => nomatch hv⟩
    rintro ⟨-, ⟨-, ht', -⟩ | ⟨hidle, -⟩⟩
    · exact ht ht'
    · cases hq.symm.trans hidle
  · refine ⟨iff_of_true rfl ⟨hrst, .inl ⟨hq, ht, hm⟩⟩, fun _ hv => (nomatch hv), fun _ => ?_⟩
    simp only [hq, true_and]
    rfl
  · obtain ⟨_, _, _, _, _, _, _, _, _, rfl⟩ := runMicroOp_frame hop
    exact ⟨iff_of_false Bool.false_ne_true (by simp [hq, hm]), fun _ _ => ⟨rfl, rfl⟩, fun hv => nomatch hv⟩
  · exact ⟨iff_of_false Bool.false_ne_true (by simp [hq, hp]), fun _ _ => ⟨rfl, rfl⟩, fun hv => nomatch hv⟩
  · obtain ⟨ms, hexec⟩ := exec_decodeRequest r.req r.lb s.beginTick.takeRequest
    cases hexec.symm.trans hreq
    obtain ⟨hill, hacc⟩ | ⟨-, hop, huninit, hacc⟩ | ⟨hlt, hready, hacc⟩ :=
      State.accept_cases s.beginTick.takeRequest (reqOp r.req) ms
    · rw [hacc]
      exact ⟨iff_of_true rfl ⟨hrst, .inr ⟨hq, r, hp, .inl hill⟩⟩, fun _ hv => (nomatch hv), fun _ => by simp [hq]⟩
    · rw [hacc]
      exact ⟨iff_of_true rfl ⟨hrst, .inr ⟨hq, r, hp, .inr ⟨hop, huninit⟩⟩⟩, fun _ hv => (nomatch hv),
        fun _ => by simp [hq]⟩
    · rw [hacc]
      refine ⟨iff_of_false Bool.false_ne_true ?_, fun _ _ => ⟨rfl, rfl⟩, fun hv => nomatch hv⟩
      rintro ⟨-, ⟨hrun, -⟩ | ⟨-, r', hp', hrej⟩⟩
      · cases hq.symm.trans hrun
      · cases hp.symm.trans hp'
        obtain hill | ⟨hop, huninit⟩ := hrej
        · omega
        · cases huninit.symm.trans (hready.resolve_left hop)

/-- Settles O30: PINMAP has no line twice, so each line carries the level of its role. -/
theorem pinLevels : Obligations.PinLevels := by
  intro s h
  refine ⟨s.lookup_physicalLines h rfl, s.lookup_physicalLines h rfl, s.lookup_physicalLines h rfl, fun i hi => ?_⟩
  rw [s.lookup_physicalLines h (s.pins_data hi), s.dataPin_eq]

/-- Settles O31, by what the tick is. -/
theorem configNeverChanges : Obligations.ConfigNeverChanges := by
  intro s t h
  obtain ⟨-, ⟨-, rfl⟩ | ⟨-, -, -, rfl⟩ | ⟨-, -, -, -, rfl⟩ | ⟨m, rest, -, -, -, -, hop⟩ | ⟨-, -, -, rfl⟩ |
    ⟨r, -, -, -, hreq⟩⟩ := step_cases h
  · exact ⟨rfl, rfl⟩
  · exact ⟨rfl, rfl⟩
  · exact ⟨rfl, rfl⟩
  · obtain ⟨_, _, _, _, _, _, _, _, _, rfl⟩ := runMicroOp_frame hop
    exact ⟨rfl, rfl⟩
  · exact ⟨rfl, rfl⟩
  · obtain ⟨ms, hexec⟩ := exec_decodeRequest r.req r.lb s.beginTick.takeRequest
    cases hexec.symm.trans hreq
    exact State.accept_cfg_env _ _ _

/-- Settles O29: the registers by evaluation, the status bits by the values of SEQ and SESSION. -/
theorem resetStateRegisters : Obligations.ResetStateRegisters := by
  refine ⟨rfl, by decide, rfl, fun s => ⟨?_, ?_, ?_, ?_, ?_, ?_⟩⟩
  · simp [State.reqReady]
  · simp [State.busy]
  · simp [State.sessionReady]
  all_goals simp [State.status]

end Sys2Proof.Proofs
end

section
/-! PROOF. A running request, tick by tick to its completion (40_transport.md R83, 42_session_init.md R120), with one
induction for everything that is counted along the way. -/

namespace Sys2Proof.Machine

open Sys2Proof

/-- Without a reset ahead there is none in this tick. -/
theorem State.noReset.rst {s : State} (h : s.noReset) : s.rst = false := by
  unfold State.rst
  cases hev : s.events with
  | nil => rfl
  | cons ev rest => exact h ev (by simp [hev])

/-- Without a reset ahead there is none after this tick. -/
theorem State.noReset.tail {s t : State} (h : s.noReset) (ht : t.events = s.events.tail) : t.noReset :=
  fun ev hev => h ev (List.mem_of_mem_tail (ht ▸ hev))

/-- The tick of a wait leaves one tick less (40_transport.md R83). -/
theorem State.ticksLeft_waitTick (s : State) (ht : s.timer ≠ 0) :
    s.ticksLeft = (s.beginTick.withTimer (s.timer - 1)).ticksLeft + 1 := by
  have hcount : s.timer.toNat = (s.timer - 1).toNat + 1 := by bv_omega
  simp only [State.ticksLeft, State.withTimer_timer, State.withTimer_mq, State.beginTick_mq]
  omega

/-- The tick of a micro-op leaves one tick less; the tick that loads a wait is one of its n (40_transport.md R83). -/
theorem State.ticksLeft_microOpTick {s t : State} (ht : s.timer = 0) {m : MicroOp} {rest : List MicroOp}
    (hm : s.mq = m :: rest) (hwait : m ≠ .wait 0) (h : (runMicroOp m (s.beginTick.withMq rest)).outcome = .next t) :
    s.ticksLeft = t.ticksLeft + 1 := by
  cases m with
  | wait n =>
    have hcount : n.toNat = (n - 1).toNat + 1 := by
      have : n ≠ 0 := fun h0 => hwait (h0 ▸ rfl)
      bv_omega
    cases h
    have hzero : s.timer.toNat = 0 := by simp [ht]
    simp only [State.ticksLeft, hm, hzero, ticksOfOps, State.withTimer_timer, State.withTimer_mq, State.withMq_mq]
    omega
  | setE v =>
    obtain ⟨c, n, rfl⟩ := setE_frame h
    simp [State.ticksLeft, hm, ht, ticksOfOps, Nat.add_comm]
  | dirOut | dirIn | drive _ | setRs _ | setRw _ | sample =>
    cases h
    simp [State.ticksLeft, hm, ht, ticksOfOps, Nat.add_comm]

/-- The head of a micro-program that meets the timing of the bus is no wait of 0 ticks (40_transport.md R80). -/
theorem SafeOps.head_ne_wait_zero {c : Config} {m : MicroOp} {rest : List MicroOp} {v : LineView}
    (h : SafeOps c (m :: rest) v) : m ≠ .wait 0 := by
  rintro rfl
  exact h.1 rfl

/-- No micro-op of a request stops the machine: E rises only after the settling time (70_reset_and_hazards.md R181). -/
theorem Inv.microOp_answers {s : State} (hi : Inv s) (hq : s.seq = .run) (ht : s.timer = 0) {m : MicroOp}
    {rest : List MicroOp} (hm : s.mq = m :: rest) :
    ∃ t, (runMicroOp m (s.beginTick.withMq rest)).outcome = .next t := by
  have hsafe := hi.running hq
  rw [hm] at hsafe
  cases m with
  | setE v =>
    rw [runMicroOp]
    by_cases he : (s.beginTick.withMq rest).eO = v
    · exact ⟨_, he ▸ congrArg _ (setE_level _)⟩
    · cases v with
      | true =>
        obtain ⟨-, hneed, -⟩ := hsafe
        have hneed : s.ctrl.need ≤ s.ctrl.sinceEdge + s.cfg.tTick := by simpa [State.lineView, ht] using hneed
        rw [setE_true_of_low (by simpa using he)]
        obtain ⟨-, hshort, -⟩ | ⟨-, hdone⟩ := riseE_cases (s.beginTick.withMq rest)
        · simp at hshort
          omega
        · exact ⟨_, congrArg _ hdone⟩
      | false =>
        obtain ⟨_, _, hfall, -⟩ := fallE_spec (s.beginTick.withMq rest)
        rw [setE_false_of_high (by simpa using he)]
        exact ⟨_, hfall⟩
  | dirOut | dirIn | drive _ | setRs _ | setRw _ | sample | wait _ => exact ⟨_, rfl⟩

/-- What a tick of a running block that does not complete it can be: a tick of a wait, or of a micro-op. -/
inductive RunningTick (s t : State) : Prop
  | wait (ht : s.timer ≠ 0) (h : t = s.beginTick.withTimer (s.timer - 1))
  | microOp (m : MicroOp) (rest : List MicroOp) (ht : s.timer = 0) (hm : s.mq = m :: rest)
      (h : (runMicroOp m (s.beginTick.withMq rest)).outcome = .next t)

/-- A tick of a running block that does not complete it leaves it running, with the inputs of this tick used up. -/
theorem RunningTick.frame {s t : State} (h : RunningTick s t) :
    t.seq = s.seq ∧ t.events = s.events.tail ∧ t.curOp = s.curOp ∧ t.session = s.session ∧ t.rspValid = false := by
  cases h with
  | wait _ h =>
    subst h
    exact ⟨rfl, rfl, rfl, rfl, rfl⟩
  | microOp m rest _ _ h =>
    obtain ⟨_, _, _, _, _, _, _, _, _, rfl⟩ := runMicroOp_frame h
    exact ⟨rfl, rfl, rfl, rfl, rfl⟩

/-- A tick of a running block that does not complete it leaves one tick less. -/
theorem RunningTick.ticksLeft {s t : State} (h : RunningTick s t) (hi : Inv s) (hq : s.seq = .run) :
    s.ticksLeft = t.ticksLeft + 1 := by
  cases h with
  | wait ht h =>
    subst h
    exact s.ticksLeft_waitTick ht
  | microOp m rest ht hm h =>
    have hsafe := hi.running hq
    rw [hm] at hsafe
    exact State.ticksLeft_microOpTick ht hm hsafe.head_ne_wait_zero h

/-- A running block without a reset completes in this tick or runs on. -/
theorem Inv.step_running {s : State} (hi : Inv s) (hr : s.rst = false) (hq : s.seq = .run) :
    (s.timer = 0 ∧ s.mq = [] ∧ step s = .next s.beginTick.complete) ∨ ∃ t, step s = .next t ∧ RunningTick s t := by
  by_cases ht : s.timer = 0
  · cases hm : s.mq with
    | nil => exact .inl ⟨ht, rfl, step_complete s hi.rspLegal hr hq ht hm⟩
    | cons m rest =>
      obtain ⟨t, h⟩ := hi.microOp_answers hq ht hm
      exact .inr ⟨t, (step_microOp s hi.rspLegal hr hq ht m rest hm).trans h, .microOp m rest ht hm h⟩
  · exact .inr ⟨_, step_wait s hi.rspLegal hr hq ht, .wait ht rfl⟩

/-- What holds of a running block at its completion tick, and before every other of its ticks if it holds after it, holds
of every running block without a reset ahead (42_session_init.md R118, R120). -/
theorem running_induction {P : State → Prop}
    (complete : ∀ s, Inv s → s.noReset → s.seq = .run → s.timer = 0 → s.mq = [] →
      step s = .next s.beginTick.complete → P s)
    (tick : ∀ s t, Inv s → s.noReset → s.seq = .run → step s = .next t → RunningTick s t → P t → P s)
    (s : State) (hi : Inv s) (hn : s.noReset) (hq : s.seq = .run) : P s := by
  induction hk : s.ticksLeft generalizing s with
  | zero => simp [State.ticksLeft] at hk
  | succ k ih =>
    obtain ⟨ht, hm, hstep⟩ | ⟨t, hstep, h⟩ := hi.step_running hn.rst hq
    · exact complete s hi hn hq ht hm hstep
    · obtain ⟨hseq, hev, -⟩ := h.frame
      have hticks := h.ticksLeft hi hq
      exact tick s t hi hn hq hstep h
        (ih t (Proofs.stepKeepsInv s t hi hstep) (hn.tail hev) (hseq.trans hq) (by omega))

end Sys2Proof.Machine
end

section
/-! PROOF. The words the controller latches while a request runs (20_memory.md R43, R56). -/

namespace Sys2Proof.Machine

open Sys2Proof

/-- What the controller latches of a word of a micro-program: the word of a write (20_memory.md R43). -/
def latchedOfWord (p : Level × Level × Option Byte) : Option Latched :=
  if p.2.1 then none else p.2.2.map fun b => .word p.1 b

/-- The write words of the micro-program that is left, in order. -/
def State.writesLeft (s : State) : List Latched := (wordsOfOps s.mq s.lineView).filterMap latchedOfWord

/-- The words of a micro-program depend on RS, RW, E and the data lines only, not on the direction and the times. -/
theorem wordsOfOps_congr (ms : List MicroOp) {v w : LineView} (hrs : v.rs = w.rs) (hrw : v.rw = w.rw) (he : v.e = w.e)
    (hdb : v.db = w.db) : wordsOfOps ms v = wordsOfOps ms w := by
  induction ms generalizing v w with
  | nil => rfl
  | cons m ms ih =>
    cases m with
    | wait _ | sample | dirOut | dirIn => exact ih hrs hrw he hdb
    | drive b => exact ih hrs hrw he rfl
    | setRs l => exact ih rfl hrw he hdb
    | setRw l => exact ih hrs rfl he hdb
    | setE l =>
      cases l with
      | true => exact ih hrs hrw rfl hdb
      | false =>
        have hlow := ih (v := { v with e := false }) (w := { w with e := false }) hrs hrw rfl hdb
        have hsame := ih hrs hrw he hdb
        simp only [wordsOfOps, hrs, hrw, he, hdb] at hlow ⊢
        rw [hlow, hsame]

/-- The write words that are left, from any lines that agree with the state's in RS, RW, E and the data. -/
theorem State.writesLeft_eq (t : State) (v : LineView) (hrs : t.rsO = v.rs) (hrw : t.rwO = v.rw) (he : t.eO = v.e)
    (hdb : t.dbO = v.db) : t.writesLeft = (wordsOfOps t.mq v).filterMap latchedOfWord :=
  congrArg (List.filterMap latchedOfWord) (wordsOfOps_congr t.mq hrs hrw he hdb)

/-- A tick in which E does not fall latches no word (20_memory.md R43). -/
theorem latchedWords_of_noFall {s t : State} (h : step s = .next t) (he : s.eO = true → t.eO = true) (n : Nat) :
    latchedWords (n + 1) s = latchedWords n t := by
  cases hs : s.eO
  · simp [latchedWords, h, hs]
  · simp [latchedWords, h, hs, he hs]

/-- A tick in which E falls latches the word of a write, and none of a read (20_memory.md R43). -/
theorem latchedWords_of_fall {s t : State} (h : step s = .next t) (hs : s.eO = true) (ht : t.eO = false) (n : Nat) :
    latchedWords (n + 1) s = if t.rwO then latchedWords n t else s.latchedWord :: latchedWords n t := by
  cases hrw : t.rwO <;> simp [latchedWords, h, hs, ht, hrw]

/-- The word that a write pulse of the block ends with is seen by the controller (70_reset_and_hazards.md R182, R183). -/
theorem Inv.latchedWord_eq {s : State} (hi : Inv s) (hr : s.rst = false) (he : s.eO = true) (hrw : s.rwO = false)
    (hwide : s.cfg.tEH ≤ s.ctrl.sinceEdge + s.cfg.tTick) : s.latchedWord = .word s.rsO s.dbO := by
  obtain ⟨-, hsetup, -⟩ := hi.cfgWf
  have hdir : s.dir = .output := by simpa [hrw] using hi.strobe he
  simp [State.latchedWord, State.pulseGood, State.setupMet, hr, hdir, hwide, hsetup]

/-- The tick of a falling edge latches the word on the lines if it is that of a write (20_memory.md R43). -/
theorem Inv.latchedWords_fallTick {s t : State} (hi : Inv s) (hr : s.rst = false) (hstep : step s = .next t)
    (he : s.eO = true) (hwide : s.cfg.tEH ≤ s.ctrl.sinceEdge + s.cfg.tTick) (hm : s.mq = .setE false :: t.mq)
    (hrs : t.rsO = s.rsO) (hrw : t.rwO = s.rwO) (hlow : t.eO = false) (hdb : t.dbO = s.dbO) {n : Nat}
    (hrest : latchedWords n t = t.writesLeft) : latchedWords (n + 1) s = s.writesLeft := by
  have hwords : wordsOfOps s.mq s.lineView = (s.rsO, s.rwO, if s.rwO then none else some s.dbO) ::
      wordsOfOps t.mq { s.lineView with e := false } := by
    rw [hm]
    exact if_pos he
  rw [latchedWords_of_fall hstep he hlow, hrest, t.writesLeft_eq { s.lineView with e := false } hrs hrw hlow hdb,
    State.writesLeft, hwords]
  cases hwrite : s.rwO
  · simp [hi.latchedWord_eq hr he hwrite hwide, latchedOfWord, hrw, hwrite]
  · simp [latchedOfWord, hrw, hwrite]

/-- A tick of a micro-op latches what its micro-program says. -/
theorem Inv.latchedWords_microOpTick {s t : State} (hi : Inv s) (hr : s.rst = false) (hq : s.seq = .run)
    (ht : s.timer = 0) {m : MicroOp} {rest : List MicroOp} (hm : s.mq = m :: rest) (hstep : step s = .next t)
    (h : (runMicroOp m (s.beginTick.withMq rest)).outcome = .next t) {n : Nat} (hrest : latchedWords n t = t.writesLeft) :
    latchedWords (n + 1) s = s.writesLeft := by
  have hsafe := hi.running hq
  rw [hm] at hsafe
  rw [State.writesLeft, hm]
  cases m with
  | dirOut | dirIn | drive _ | setRs _ | setRw _ | sample | wait _ =>
    cases h
    rw [latchedWords_of_noFall hstep id, hrest, wordsOfOps]
    exact State.writesLeft_eq _ _ rfl rfl rfl rfl
  | setE v =>
    obtain ⟨c, d, rfl⟩ := setE_frame h
    cases v with
    | true =>
      rw [latchedWords_of_noFall hstep fun _ => rfl, hrest, wordsOfOps]
      exact State.writesLeft_eq _ _ rfl rfl rfl rfl
    | false =>
      by_cases he : s.eO = true
      · rw [SafeOps, if_pos (c := s.lineView.e = true) he] at hsafe
        obtain ⟨hwide, -⟩ := hsafe
        have hwide : s.cfg.tEH ≤ s.ctrl.sinceEdge + s.cfg.tTick := by simpa [State.lineView, ht] using hwide
        rw [← hm]
        exact hi.latchedWords_fallTick hr hstep he hwide hm rfl rfl rfl rfl hrest
      · rw [latchedWords_of_noFall hstep fun he' => absurd he' he, hrest, wordsOfOps,
          if_neg (c := s.lineView.e = true) he]
        exact State.writesLeft_eq _ _ rfl rfl (Bool.eq_false_of_not_eq_true he).symm rfl

/-- A running block latches the write words of the micro-program that is left, tick by tick. -/
theorem RunningTick.latchedWords {s t : State} (h : RunningTick s t) (hi : Inv s) (hr : s.rst = false) (hq : s.seq = .run)
    (hstep : step s = .next t) {n : Nat} (hrest : latchedWords n t = t.writesLeft) :
    latchedWords (n + 1) s = s.writesLeft := by
  cases h with
  | wait ht h =>
    subst h
    rw [latchedWords_of_noFall hstep id, hrest, State.writesLeft, s.lineView_waitTick ht]
    rfl
  | microOp m rest ht hm h => exact hi.latchedWords_microOpTick hr hq ht hm hstep h hrest

/-- The words latched until a running request completes are the write words of its micro-program. -/
theorem Inv.latchedWords_ticksLeft {s : State} (hi : Inv s) (hn : s.noReset) (hq : s.seq = .run) :
    latchedWords s.ticksLeft s = s.writesLeft := by
  refine running_induction (P := fun s => latchedWords s.ticksLeft s = s.writesLeft) ?_ ?_ s hi hn hq
  · intro s _ _ _ ht hm hstep
    simp [State.ticksLeft, State.writesLeft, ht, hm, ticksOfOps, wordsOfOps, latchedWords_of_noFall hstep id, latchedWords]
  · intro s t hi hn hq hstep h hrest
    rw [h.ticksLeft hi hq]
    exact h.latchedWords hi hn.rst hq hstep hrest

/-- A reset in an enable pulse ends it with an unknown word (70_reset_and_hazards.md R177; notes/assumptions/17.md). -/
theorem latchedWords_resetInPulse {s : State} (hr : s.rspErr ≠ rspReserved) (he : s.eO = true) (hrst : s.rst = true)
    (n : Nat) : latchedWords (n + 1) s = .unknown :: latchedWords n s.beginTick.resetAction := by
  rw [latchedWords_of_fall (step_rst s hr hrst) he rfl, if_neg (by simp)]
  simp [State.latchedWord, hrst]

end Sys2Proof.Machine

namespace Sys2Proof.Proofs

open Sys2Proof Sys2Proof.Machine

/-- Settles O44, by induction on the ticks of the running request; a reset's tick by its own step. -/
theorem latchedWordsAreTheProgram : Obligations.LatchedWordsAreTheProgram :=
  ⟨fun _ hi hn hq => hi.latchedWords_ticksLeft hn hq,
    fun s n hr he hrst => ⟨_, step_rst s hr hrst, latchedWords_resetInPulse hr he hrst n⟩⟩

end Sys2Proof.Proofs
end

section
/-! PROOF. The edges of E: what the attached controller sees at the falling one, and when the rising one stops the machine
(20_memory.md R43, R47, R49). -/

namespace Sys2Proof.Machine

open Sys2Proof

/-- The word on the lines: a read's byte is the sampled one, and a write has one while the block drives the data lines
(30_encoding.md R69; notes/assumptions/22.md). -/
theorem State.wordOnLines_of {s : State} {w : BitVec 10}
    (h : s.rwO = true ∧ w = busWord s.rsO true s.rdata ∨
      s.rwO = false ∧ s.dir = .output ∧ w = busWord s.rsO false s.dbO) : s.wordOnLines = some w := by
  obtain ⟨hrw, rfl⟩ | ⟨hrw, hdir, rfl⟩ := h
  · simp [State.wordOnLines, hrw]
  · simp [State.wordOnLines, hrw, hdir]

/-- The lines after E has fallen on a known word, with the settling time of that word (41_encoder.md R110). -/
theorem State.loweredE_of_word {s : State} {w : BitVec 10} (h : s.wordOnLines = some w) : s.loweredE = { s with
    eO := false
    ctrl := { s.ctrl with sinceEdge := 0, need := settlingFloor s.cfg (busRs w) (busRw w) (busByte w) } } := by
  simp only [State.loweredE, State.neededAfterWord, h]

/-- A falling edge of E on which the attached controller sees a word of the spec runs it (20_memory.md R43, R47). -/
theorem fallE_of_word {u : State} {w : BitVec 10} {i : Instr} (ha : u.env.attached = true) (hp : u.pulseGood = true)
    (hw : u.wordOnLines = some w) (hd : decodeBus w = .ok i) : fallE u = .run i u.loweredE := by
  simp [fallE, ha, hp, hw, hd]

/-- What a falling edge of E comes to: the attached controller runs the word, or loses its state, or none is attached
(20_memory.md R43). -/
theorem fallE_cases (u : State) :
    (u.env.attached = false ∧ fallE u = .done u.loweredE) ∨
    (u.env.attached = true ∧ fallE u = .done u.loweredE.latchUnknown) ∨
    ∃ w i, u.env.attached = true ∧ u.pulseGood = true ∧ u.wordOnLines = some w ∧ decodeBus w = .ok i ∧
      fallE u = .run i u.loweredE := by
  cases ha : u.env.attached
  · exact .inl ⟨rfl, by simp [fallE, ha]⟩
  · refine .inr ?_
    cases hp : u.pulseGood
    · exact .inl ⟨rfl, by simp [fallE, ha, hp]⟩
    · cases hw : u.wordOnLines with
      | none => exact .inl ⟨rfl, by simp [fallE, ha, hp, hw]⟩
      | some w =>
        cases hd : decodeBus w with
        | error e => exact .inl ⟨rfl, by simp [fallE, ha, hp, hw, hd]⟩
        | ok i => exact .inr ⟨w, i, rfl, rfl, rfl, hd, fallE_of_word ha hp hw hd⟩

end Sys2Proof.Machine

namespace Sys2Proof.Proofs

open Sys2Proof Sys2Proof.Machine

/-- Settles O20: the tick is the falling edge of E on the state after its start. -/
theorem stepRunsLatchedWord : Obligations.StepRunsLatchedWord := by
  intro s rest w i hr hrst hq ht hm he hatt hwide hsetup hline hdec
  have hword : (s.beginTick.withMq rest).wordOnLines = some w := State.wordOnLines_of hline
  have hgood : (s.beginTick.withMq rest).pulseGood = true := by
    simp [State.pulseGood, State.setupMet, hwide, hsetup]
  rw [step_microOp s hr hrst hq ht _ rest hm, runMicroOp, setE_false_of_high (u := s.beginTick.withMq rest) he,
    fallE_of_word (u := s.beginTick.withMq rest) hatt hgood hword hdec, Fetched.outcome, State.loweredE_of_word hword]
  rfl

/-- Settles O33: the tick is a rising edge of E before the settling time has passed. -/
theorem settlingViolationStops : Obligations.SettlingViolationStops := by
  intro s rest hr hrst hq ht hm he hatt hshort
  rw [step_microOp s hr hrst hq ht _ rest hm, runMicroOp, setE_true_of_low (u := s.beginTick.withMq rest) he]
  obtain ⟨-, -, hstop⟩ | ⟨hsettled, -⟩ := riseE_cases (s.beginTick.withMq rest)
  · rw [hstop, Fetched.outcome]
  · exact absurd ⟨hatt, by simpa using hshort⟩ hsettled

end Sys2Proof.Proofs
end

section
/-! PROOF. A controller learns nothing from the block but by the handshake of an INIT (20_memory.md R50,
70_reset_and_hazards.md R179, R180). -/

namespace Sys2Proof.Machine

open Sys2Proof

/-- `d` knows no more than `c`: it is known only if `c` is or was powered for the INIT under way, it was powered for that
only if `c` was, and where neither holds and no cell of `c` is known, none of `d` is. -/
structure Controller.LearnsNothing (c d : Controller) : Prop where
  known : d.known = true → c.known = true ∨ c.poweredForInit = true
  powered : d.poweredForInit = true → c.poweredForInit = true
  cells : c.known = false → c.poweredForInit = false → c.ddram = [] ∧ c.cgram = [] → d.ddram = [] ∧ d.cgram = []

/-- Where nothing is known of `c`, nothing is known of `d`. -/
theorem Controller.LearnsNothing.unknown {c d : Controller} (h : c.LearnsNothing d) (hk : c.known = false)
    (hp : c.poweredForInit = false) (hcells : c.ddram = [] ∧ c.cgram = []) :
    d.known = false ∧ d.poweredForInit = false ∧ d.ddram = [] ∧ d.cgram = [] := by
  refine ⟨Bool.eq_false_iff.2 fun hd => ?_, Bool.eq_false_iff.2 fun hd => ?_, h.cells hk hp hcells⟩
  · simpa [hk, hp] using h.known hd
  · simpa [hp] using h.powered hd

/-- What is not known and not learnt stays so over two changes. -/
theorem Controller.LearnsNothing.trans {c d e : Controller} (h : c.LearnsNothing d) (h' : d.LearnsNothing e) :
    c.LearnsNothing e where
  known he := (h'.known he).elim h.known fun hp => .inr (h.powered hp)
  powered he := h.powered (h'.powered he)
  cells hk hp hcells := by
    obtain ⟨hdk, hdp, hdcells⟩ := h.unknown hk hp hcells
    exact h'.cells hdk hdp hdcells

/-- A controller that changes none of what it knows learns nothing. -/
theorem Controller.LearnsNothing.of_eq {c d : Controller} (hk : d.known = c.known)
    (hp : d.poweredForInit = c.poweredForInit) (hd : d.ddram = c.ddram) (hc : d.cgram = c.cgram) : c.LearnsNothing d :=
  ⟨fun h => .inl (hk ▸ h), fun h => hp ▸ h, fun _ _ h => hd ▸ hc ▸ h⟩

/-- A controller whose state is lost has learnt nothing. -/
theorem Controller.LearnsNothing.of_lost {c d : Controller} (hk : d.known = false) (hp : d.poweredForInit = false)
    (hd : d.ddram = []) (hc : d.cgram = []) : c.LearnsNothing d :=
  ⟨fun h => by simp [hk] at h, fun h => by simp [hp] at h, fun _ _ _ => ⟨hd, hc⟩⟩

/-- The passing of a tick teaches the controller nothing (70_reset_and_hazards.md R180). -/
theorem Controller.learnsNothing_elapse (cfg : Config) (pc : Bool) (n : Nat) (c : Controller) :
    c.LearnsNothing (c.elapse cfg pc n) := by
  cases pc
  · exact .of_eq rfl rfl rfl rfl
  · exact .of_lost rfl rfl rfl rfl

/-- A reset teaches the controller nothing (70_reset_and_hazards.md R177). -/
theorem Controller.learnsNothing_cutPulse (cfg : Config) (e : Level) (n : Nat) (c : Controller) :
    c.LearnsNothing (c.cutPulse cfg e n) := by
  cases e
  · exact .of_eq rfl rfl rfl rfl
  · exact .of_lost rfl rfl rfl rfl

/-- A latched word teaches the controller nothing but by the handshake (70_reset_and_hazards.md R179). -/
theorem State.learnsNothing_latch (s : State) (w : BitVec 10) {eff : Nat → Controller → Controller}
    (h : Controller.KeepsContract eff) : s.ctrl.LearnsNothing (s.latch w eff).ctrl := by
  obtain ⟨-, -, hknown, hpowered⟩ := s.latch_spec w eff h
  exact ⟨hknown, hpowered, fun hk _ _ => by simp [hk]⟩

/-- A falling edge of E teaches the controller nothing but by the handshake. -/
theorem fallE_learnsNothing {u t : State} (h : (fallE u).outcome = .next t) : u.ctrl.LearnsNothing t.ctrl := by
  obtain ⟨-, hfall⟩ | ⟨-, hfall⟩ | ⟨w, i, -, -, -, hi, hfall⟩ := fallE_cases u
  · rw [hfall] at h
    cases h
    exact .of_eq rfl rfl rfl rfl
  · rw [hfall] at h
    cases h
    exact .of_lost rfl rfl rfl rfl
  · obtain ⟨v, eff, hexec, hkeeps⟩ := exec_decodeBus w i hi u.loweredE
    rw [hfall, Fetched.outcome, hexec] at h
    cases h
    have hlowered : u.ctrl.LearnsNothing u.loweredE.ctrl := .of_eq rfl rfl rfl rfl
    exact hlowered.trans (u.loweredE.learnsNothing_latch v hkeeps)

/-- A micro-op teaches the controller nothing but by the handshake (40_transport.md R81). -/
theorem runMicroOp_learnsNothing {m : MicroOp} {u t : State} (h : (runMicroOp m u).outcome = .next t) :
    u.ctrl.LearnsNothing t.ctrl := by
  cases m with
  | setE v =>
    rw [runMicroOp] at h
    by_cases he : u.eO = v
    · rw [← he, setE_level] at h
      cases h
      exact .of_eq rfl rfl rfl rfl
    · cases v with
      | true =>
        rw [setE_true_of_low (by simpa using he)] at h
        rw [riseE_next h]
        exact .of_eq rfl rfl rfl rfl
      | false =>
        rw [setE_false_of_high (by simpa using he)] at h
        exact fallE_learnsNothing h
  | dirOut | dirIn | drive _ | setRs _ | setRw _ | sample | wait _ =>
    cases h
    exact .of_eq rfl rfl rfl rfl

/-- The acceptance of a request other than INIT teaches the controller nothing, and that of INIT notes whether it is
powered (42_session_init.md R117, 70_reset_and_hazards.md R179). -/
theorem State.accept_ctrl (s : State) (op : BitVec 4) (ms : List MicroOp) :
    (s.accept op ms).ctrl = s.ctrl ∨ op = 0x0 ∧ (s.accept op ms).ctrl = s.ctrl.beginInit := by
  obtain ⟨-, h⟩ | ⟨-, -, -, h⟩ | ⟨-, -, h⟩ := s.accept_cases op ms
  · exact .inl (h ▸ rfl)
  · exact .inl (h ▸ rfl)
  · rw [h, State.start_ctrl]
    by_cases hop : op = 0x0
    · exact .inr ⟨hop, if_pos hop⟩
    · exact .inl (if_neg hop)

/-- What a tick does to what the controller knows, once its time has passed: it learns nothing, or an INIT is accepted. -/
theorem step_ctrl_cases {s t : State} (h : step s = .next t) :
    s.beginTick.ctrl.LearnsNothing t.ctrl ∨
    (s.rst = false ∧ s.seq = .idle ∧ (∃ r, s.presented = some r ∧ reqOp r.req = 0x0) ∧
      t.ctrl = s.beginTick.ctrl.beginInit) := by
  obtain ⟨-, ⟨-, rfl⟩ | ⟨-, -, -, rfl⟩ | ⟨-, -, -, -, rfl⟩ | ⟨m, rest, -, -, -, -, hop⟩ | ⟨-, -, -, rfl⟩ |
    ⟨r, hrst, hq, hp, hreq⟩⟩ := step_cases h
  · exact .inl (Controller.learnsNothing_cutPulse _ _ _ _)
  · exact .inl (.of_eq rfl rfl rfl rfl)
  · exact .inl (.of_eq rfl rfl rfl rfl)
  · exact .inl (runMicroOp_learnsNothing (u := s.beginTick.withMq rest) hop)
  · exact .inl (.of_eq rfl rfl rfl rfl)
  · obtain ⟨ms, hexec⟩ := exec_decodeRequest r.req r.lb s.beginTick.takeRequest
    cases hexec.symm.trans hreq
    obtain hc | ⟨hinit, hc⟩ := s.beginTick.takeRequest.accept_ctrl (reqOp r.req) ms
    · rw [hc]
      exact .inl (.of_eq rfl rfl rfl rfl)
    · exact .inr ⟨hrst, hq, ⟨r, hp, hinit⟩, hc⟩

/-- The start of a tick with a power cycle leaves the controller not powered and nothing known of it
(70_reset_and_hazards.md R180). -/
theorem State.beginTick_ctrl_of_powerCycle {s : State} (h : s.powerCycle = true) : s.beginTick.ctrl =
    { s.ctrl.lost s.draws with up := 0, gap := 0, sinceEdge := s.ctrl.sinceEdge + s.cfg.tTick } := by
  rw [State.beginTick_ctrl, h, Controller.elapse_powerCycle]

end Sys2Proof.Machine

namespace Sys2Proof.Proofs

open Sys2Proof Sys2Proof.Machine

/-- Settles O52, by what a tick does to what the controller knows; an INIT accepted in the tick of a power cycle finds the
controller not powered. -/
theorem powerCycleNeedsInit : Obligations.PowerCycleNeedsInit := by
  refine ⟨fun s t h hpc => ?_, fun s t h hk => ?_, fun s t h hp => ?_⟩
  · have hlost := State.beginTick_ctrl_of_powerCycle hpc
    obtain hnow | ⟨-, -, -, hinit⟩ := step_ctrl_cases h
    · rw [hlost] at hnow
      exact hnow.unknown rfl rfl ⟨rfl, rfl⟩
    · rw [hinit, hlost]
      exact ⟨rfl, rfl, rfl, rfl⟩
  · have hpast := s.ctrl.learnsNothing_elapse s.cfg s.powerCycle s.draws
    obtain hnow | ⟨-, -, -, hinit⟩ := step_ctrl_cases h
    · exact (hpast.trans hnow).known hk
    · rw [hinit] at hk
      exact hpast.known hk
  · have hpast := s.ctrl.learnsNothing_elapse s.cfg s.powerCycle s.draws
    obtain hnow | ⟨hrst, hq, hr, hinit⟩ := step_ctrl_cases h
    · exact .inl ((hpast.trans hnow).powered hp)
    · refine .inr ⟨hrst, hq, Bool.eq_false_iff.2 fun hpc => ?_, hr⟩
      rw [hinit, State.beginTick_ctrl_of_powerCycle hpc] at hp
      cases hp

end Sys2Proof.Proofs
end

section
/-! PROOF. The bus words as the controller latches them: the word of each instruction (30_encoding.md R70), and what
latching does where the contract is in force and where it is not (20_memory.md R43 to R48). -/

namespace Sys2Proof.Machine

open Sys2Proof

/-! ## The word of an instruction -/

/-- The mask of a 6-bit address keeps all of it (41_encoder.md R107). -/
theorem encCgram_setWidth (a : BitVec 6) : encCgram (a.setWidth 8) = 0x40 ||| a.setWidth 8 := by
  ext i hi
  interval_cases i <;> simp [encCgram]

/-- The mask of a 7-bit address keeps all of it (41_encoder.md R108). -/
theorem encDdram_setWidth (a : BitVec 7) : encDdram (a.setWidth 8) = 0x80 ||| a.setWidth 8 := by
  ext i hi
  interval_cases i <;> simp [encDdram]

/-- A flag of field position 0 (30_encoding.md R71). -/
theorem flagAt_zero (f : Bool) : flagAt f 0 = (BitVec.ofBool f).setWidth 8 := BitVec.shiftLeft_zero _

/-- The controller latches the word that encodes the instruction (30_encoding.md R70). -/
theorem exec_busWord {i : Instr} {w : BitVec 10} (h : encodeCode i = .bus w) (s : State) :
    ∃ eff, exec i s = .next (s.latch w eff) := by
  cases i
  case entryModeSetI incDec shift =>
    cases h
    rw [← flagAt_zero shift]
    exact ⟨_, rfl⟩
  case displayControlI display cursor blink =>
    cases h
    rw [← flagAt_zero blink]
    exact ⟨_, rfl⟩
  case setCgramAddressI =>
    cases h
    rw [← encCgram_setWidth]
    exact ⟨_, rfl⟩
  case setDdramAddressI =>
    cases h
    rw [← encDdram_setWidth]
    exact ⟨_, rfl⟩
  all_goals cases h
  all_goals exact ⟨_, rfl⟩

/-- An instruction byte of Set CGRAM Address decodes to it (30_encoding.md R70). -/
theorem decodeByte_cgram (a : BitVec 6) : decodeByte (0x40 ||| a.setWidth 8) = .ok (.setCgramAddressI a) := by
  have haddr : (0x40#8 ||| a.setWidth 8).extractLsb' 0 6 = a := by
    ext i hi
    interval_cases i <;> simp [BitVec.getLsbD_eq_getElem]
  simp [decodeByte, haddr]

/-- An instruction byte of Set DDRAM Address decodes to it (30_encoding.md R70). -/
theorem decodeByte_ddram (a : BitVec 7) : decodeByte (0x80 ||| a.setWidth 8) = .ok (.setDdramAddressI a) := by
  have haddr : (0x80#8 ||| a.setWidth 8).extractLsb' 0 7 = a := by
    ext i hi
    interval_cases i <;> simp [BitVec.getLsbD_eq_getElem]
  simp [decodeByte, haddr]

/-- The word of a bus instruction decodes to it (30_encoding.md R70, R75). -/
theorem decodeBus_of_encodeCode {i : Instr} {w : BitVec 10} (h : encodeCode i = .bus w) : decodeBus w = .ok i := by
  cases i
  case setCgramAddressI a =>
    cases h
    simpa [decodeBus] using decodeByte_cgram a
  case setDdramAddressI a =>
    cases h
    simpa [decodeBus] using decodeByte_ddram a
  case dataWrite | dataRead =>
    cases h
    simp [decodeBus]
  case entryModeSetI a b | cursorDisplayShiftI a b =>
    cases h
    revert a b
    decide
  case displayControlI a b c | functionSetI a b c =>
    cases h
    revert a b c
    decide
  all_goals cases h
  all_goals rfl

/-! ## Latching a word -/

/-- An instruction word is the last of the handshake only if its byte is 0x06 (42_session_init.md R123). -/
theorem busWord_ne_handshakeLast {rs rw : Level} {b : Byte} (h : rs = true ∨ b ≠ 0x06) : busWord rs rw b ≠ 0x006 := by
  intro hw
  obtain hrs | hb := h
  · have hlast := congrArg busRs hw
    rw [busRs_busWord, hrs] at hlast
    exact absurd hlast (by decide)
  · have hlast := congrArg busByte hw
    rw [busByte_busWord] at hlast
    exact hb hlast

/-- The byte of Set DDRAM Address is not 0x06: its bit 7 is set (30_encoding.md R70). -/
theorem encDdram_ne_handshakeLast (a : Byte) : encDdram a ≠ 0x06 := by
  intro h
  have hbit := congrArg (BitVec.getLsbD · 7) h
  simp [encDdram] at hbit

/-- The byte of Set CGRAM Address is not 0x06: its bit 6 is set (30_encoding.md R70). -/
theorem encCgram_ne_handshakeLast (a : Byte) : encCgram a ≠ 0x06 := by
  intro h
  have hbit := congrArg (BitVec.getLsbD · 6) h
  simp [encCgram] at hbit

/-- Where the contract is in force, a word that is not the last of the handshake has its effect, and is noted
(20_memory.md R43). -/
theorem State.latch_known {s : State} (hk : s.ctrl.known = true) {w : BitVec 10} (hw : w ≠ 0x006)
    (eff : Nat → Controller → Controller) : s.latch w eff = { s with
      ctrl := { eff s.draws s.ctrl with recent := (eff s.draws s.ctrl).noted w }
      draws := s.draws + 1 } := by
  simp only [State.latch, hk, if_true, Controller.handshake_other _ _ _ hw]

/-- Where it is not, the controller is in any state, unless the word completes the handshake (20_memory.md R50). -/
theorem State.latch_unknown {s : State} (hk : s.ctrl.known = false) (w : BitVec 10)
    (eff : Nat → Controller → Controller) : (s.latch w eff).ctrl = (s.ctrl.anyState s.draws).handshake s.cfg w := by
  rw [State.latch_ctrl, hk, if_neg Bool.false_ne_true]

/-- A controller that the handshake makes known has taken its last word, and is in the modes INIT sets
(42_session_init.md R125). -/
theorem Controller.handshake_wakes {cfg : Config} {w : BitVec 10} {c : Controller} (hk : c.known = false)
    (h : (c.handshake cfg w).known = true) : w = 0x006 ∧ (c.handshake cfg w).modes = initModes := by
  refine ⟨by_contra fun hw => ?_, ?_⟩
  · rw [Controller.handshake_other _ _ _ hw] at h
    cases hk.symm.trans h
  · have hcomplete := ((Controller.handshake_known cfg w c).1 h).resolve_left (by simp [hk])
    rw [Controller.handshake, if_pos hcomplete]

/-! ## Data words -/

/-- AC advances where the spec states it: in DDRAM before 0x7F and not at the end of a row, unless the part counts on
there, and in CGRAM before 0x3F (20_memory.md R42, R47; 93_implementation_defined.md U12). -/
theorem Controller.advanceStated_iff (cfg : Config) (c : Controller) : c.advanceStated cfg ↔
    c.modes.incDec = true ∧ c.modes.shift = false ∧
      (c.space = .ddram ∧ c.address < 0x7F ∧ (c.address ≠ 0x07 ∧ c.address ≠ 0x47 ∨ cfg.acCountsPastRow = true) ∨
        c.space = .cgram ∧ c.address < 0x3F) := by
  unfold Controller.advanceStated Controller.atRowEnd
  cases hs : c.space
  · simp only [lastAddress, true_and, reduceCtorEq, false_and, or_false]
    tauto
  · simp [lastAddress]

/-- A memory that is replaced, and the other one, which stays. -/
theorem Controller.setCells_cells (c : Controller) (sp sp' : Space) (m : Memory) :
    (c.setCells sp m).cells sp' = if sp' = sp then m else c.cells sp' := by
  cases sp <;> cases sp' <;> rfl

/-- A store replaces the selected memory: by one with the byte in its cell, or where there is no such cell by one of
which nothing is known (20_memory.md R47; notes/assumptions/11.md). -/
theorem Controller.store_eq (cfg : Config) (c : Controller) (b : Byte) : c.store cfg b =
    c.setCells c.space
      (if cellExists cfg c.space c.address then Memory.write (c.cells c.space) c.address b else []) := by
  unfold Controller.store
  split <;> rfl

/-- The memories after a store. -/
theorem Controller.store_cells (cfg : Config) (c : Controller) (b : Byte) (sp : Space) :
    (c.store cfg b).cells sp =
      if sp = c.space then
        if cellExists cfg c.space c.address then Memory.write (c.cells c.space) c.address b else []
      else c.cells sp := by
  rw [Controller.store_eq, Controller.setCells_cells]

/-- What a memory holds after a byte is stored. -/
theorem Memory.read_write (m : Memory) (a b : Nat) (v : Byte) :
    Memory.read (Memory.write m a v) b = if b = a then some v else Memory.read m b := by
  by_cases h : b = a
  · rw [if_pos h, h, Memory.read_write_same]
  · rw [if_neg h, Memory.read_write_other m a b v h]

/-- A data write where the contract is in force: the cells of the store, then AC advances from where it was
(20_memory.md R47). -/
theorem exec_dataWrite {s : State} (hk : s.ctrl.known = true) (b : Byte) :
    ∃ t, exec (.dataWrite b) s = .next t ∧
      t = { s with ctrl := t.ctrl, draws := s.draws + 1 } ∧
      t.ctrl = { s.ctrl with
        ac := t.ctrl.ac, ddram := t.ctrl.ddram, cgram := t.ctrl.cgram
        recent := s.ctrl.noted (busWord true false b) } ∧
      (∀ sp, t.ctrl.cells sp = (s.ctrl.store s.cfg b).cells sp) ∧
      t.ctrl.ac = if s.ctrl.advanceStated s.cfg then BitVec.ofNat 7 (s.ctrl.address + 1) else freeAc s.draws := by
  have hlatch := State.latch_known hk (busWord_ne_handshakeLast (rw := false) (b := b) (.inl rfl))
    fun n c => (c.store s.cfg b).advance s.cfg n
  obtain ⟨-, -, dd, cg, hstore⟩ := s.ctrl.store_spec s.cfg b
  rw [Controller.advance_spec, hstore] at hlatch
  rw [hstore]
  exact ⟨_, congrArg Host.Outcome.next hlatch, rfl, rfl, fun sp => by cases sp <;> rfl, rfl⟩

end Sys2Proof.Machine

namespace Sys2Proof.Proofs

open Sys2Proof Sys2Proof.Machine

/-- Settles O53: a bus word is latched, and latching keeps the times. -/
theorem busWordsRun : Obligations.BusWordsRun := by
  intro i w hi s
  obtain ⟨v, eff, hexec, hkeeps⟩ := exec_decodeBus w i (decodeBus_of_encodeCode hi) s
  obtain ⟨-, htimes, -⟩ := s.latch_spec v eff hkeeps
  exact ⟨_, hexec, htimes⟩

/-- Settles O54: whatever the word, an unknown controller only takes part in the handshake. -/
theorem unknownControllerStaysUnknown : Obligations.UnknownControllerStaysUnknown := by
  intro i w hi s hk
  obtain ⟨eff, hexec⟩ := exec_busWord hi s
  have hany : (s.ctrl.anyState s.draws).known = false := hk
  refine ⟨_, hexec, ?_⟩
  rw [State.latch_unknown hk]
  refine ⟨?_, Controller.handshake_wakes hany, by simp, by simp⟩
  rw [Controller.handshake_known, hany, or_iff_right Bool.false_ne_true]
  rfl

/-- Settles O55: neither address word is the last of the handshake. -/
theorem setAddressWords : Obligations.SetAddressWords := by
  intro s hk
  exact ⟨fun a => congrArg _ (State.latch_known hk (busWord_ne_handshakeLast (.inr (encDdram_ne_handshakeLast _))) _),
    fun a => congrArg _ (State.latch_known hk (busWord_ne_handshakeLast (.inr (encCgram_ne_handshakeLast _))) _)⟩

/-- Settles O56: the memory selected after both words is a free value. -/
theorem clearHomeWords : Obligations.ClearHomeWords := by
  intro s hk
  refine ⟨⟨freeSpace s.draws, ?_⟩, ⟨freeSpace s.draws, ?_⟩⟩
  · exact congrArg _ (State.latch_known (w := 0x001) hk (by decide) clearEffect)
  · exact congrArg _ (State.latch_known (w := 0x002) hk (by decide) homeEffect)

/-- Settles O57, by the cells of the store and the advance of AC. -/
theorem dataWriteWord : Obligations.DataWriteWord := by
  intro s b hk
  obtain ⟨t, hexec, hframe, hctrl, hcells, hac⟩ := exec_dataWrite hk b
  refine ⟨t, hexec, hframe, hctrl, fun sp hsp => ?_, fun hcell a => ?_, fun hcell => ?_, ?_⟩
  · rw [hcells, Controller.store_cells, if_neg hsp]
  · rw [hcells, Controller.store_cells, if_pos rfl, if_pos hcell, Memory.read_write]
  · rw [hcells, Controller.store_cells, if_pos rfl, hcell, if_neg Bool.false_ne_true]
  · rw [hac, if_congr (s.ctrl.advanceStated_iff s.cfg) rfl rfl]

/-- Settles O58, by the advance of AC. -/
theorem dataReadWord : Obligations.DataReadWord := by
  intro s b hk
  have hlatch := State.latch_known hk (busWord_ne_handshakeLast (rw := true) (b := b) (.inl rfl))
    fun n c => c.advance s.cfg n
  rw [Controller.advance_spec, if_congr (s.ctrl.advanceStated_iff s.cfg) rfl rfl] at hlatch
  exact congrArg _ hlatch

end Sys2Proof.Proofs
end

section
/-! PROOF. Decoding undoes encoding: the bytes of a word, the fields of a request word, and the fields of a bus word
(30_encoding.md R61, R62, R69, R70, R75). -/

namespace Sys2Proof

/-! ## Bytes -/

/-- The bytes of a number, read back, are what of it fits into them. -/
theorem natOfBytes_bytesOfNat (n v : Nat) : natOfBytes (bytesOfNat n v) = v % 256 ^ n := by
  induction n generalizing v with
  | zero => simp [bytesOfNat, natOfBytes, Nat.mod_one]
  | succ n ih =>
    rw [bytesOfNat, natOfBytes, ih, BitVec.toNat_ofNat, Nat.pow_succ' (m := 256), Nat.mod_mul (a := 256)]

/-- REQ in the low 32 bits and LB above them make a number of 20 bytes. -/
theorem request_lt (req : BitVec 32) (lb : BitVec 128) : req.toNat + 2 ^ 32 * lb.toNat < 256 ^ 20 := by
  have hreq := req.isLt
  have hlb := lb.isLt
  omega

/-- The word laid out as bytes is read back from them (20_memory.md R40, R58; notes/assumptions/20.md). -/
theorem codeOfBytes_bytes (c : Code) : codeOfBytes c.bytes = .ok c := by
  cases c with
  | request req lb =>
    have hreq := req.isLt
    have hlow : BitVec.ofNat 32 (req.toNat + 2 ^ 32 * lb.toNat) = req := by
      apply BitVec.eq_of_toNat_eq
      rw [BitVec.toNat_ofNat, Nat.add_mul_mod_self_left, Nat.mod_eq_of_lt hreq]
    have hhigh : BitVec.ofNat 128 ((req.toNat + 2 ^ 32 * lb.toNat) / 2 ^ 32) = lb := by
      rw [Nat.add_mul_div_left _ _ (by decide), Nat.div_eq_of_lt hreq, Nat.zero_add, BitVec.ofNat_toNat,
        BitVec.setWidth_eq]
    rw [codeOfBytes, Code.bytes, Laws.Port.length_bytesOfNat, if_neg (by decide), if_pos rfl, natOfBytes_bytesOfNat,
      Nat.mod_eq_of_lt (request_lt req lb), hlow, hhigh]
  | bus w =>
    have hw := w.isLt
    rw [codeOfBytes, Code.bytes, Laws.Port.length_bytesOfNat, if_pos rfl, natOfBytes_bytesOfNat,
      Nat.mod_eq_of_lt (by omega), if_pos hw, BitVec.ofNat_toNat, BitVec.setWidth_eq]

/-! ## Line operand -/

/-- The first line of two packed lines (30_encoding.md R62). -/
theorem lbLine1_packLb {line1 line2 : List Byte} (h1 : line1.length = 8) (h2 : line2.length = 8) :
    lbLine1 (packLb (line1 ++ line2)) = line1 := by
  refine List.ext_getElem (by simp [lbLine1, h1]) fun k hk hk1 => ?_
  simp only [lbLine1, List.getElem_map, List.getElem_range]
  rw [lbByte_packLb _ _ (by simp; omega) (by simp [h1, h2]), List.getElem_append_left hk1]

/-- The second line of two packed lines (30_encoding.md R62). -/
theorem lbLine2_packLb {line1 line2 : List Byte} (h1 : line1.length = 8) (h2 : line2.length = 8) :
    lbLine2 (packLb (line1 ++ line2)) = line2 := by
  refine List.ext_getElem (by simp [lbLine2, h2]) fun k hk hk2 => ?_
  simp only [lbLine2, List.getElem_map, List.getElem_range]
  rw [lbByte_packLb _ _ (by simp; omega) (by simp [h1, h2]), List.getElem_append_right (by omega)]
  simp [h1]

/-! ## Words -/

/-- The word of a well-formed instruction of either code decodes to it (30_encoding.md R61, R62, R70, R75). -/
theorem decodeCode_encodeCode (i : Instr) (h : i.wf = true) : decodeCode (encodeCode i) = .ok i := by
  cases i
  case writeTwoLines line1 line2 pd =>
    simp only [Instr.wf, rowLen, Bool.and_eq_true, beq_iff_eq] at h
    obtain ⟨h1, h2⟩ := h
    simp [encodeCode, decodeCode, decodeRequest, lbLine1_packLb h1 h2, lbLine2_packLb h1 h2]
  case reservedEF odd => cases odd <;> rfl
  case init | command | writeByte | readByte | clearDisplay | returnHome | entryModeSet | displayOnOff
      | cursorDisplayShift | functionSet | setCgramAddress | setDdramAddress | reservedD =>
    simp [encodeCode, decodeCode, decodeRequest]
  all_goals exact Machine.decodeBus_of_encodeCode rfl -- the bus words

/-- A bus word is made of its fields (30_encoding.md R69). -/
theorem busWord_fields (w : BitVec 10) : busWord (busRs w) (busRw w) (busByte w) = w := by
  ext i hi
  interval_cases i <;> simp [busWord, busRs, busRw, busByte, BitVec.getLsbD_eq_getElem]

/-- The instruction decoded from an instruction byte has that byte in its word: each branch of the decoder that answers
has tested the bits above its fields, and its fields are the other bits (30_encoding.md R70, R75). -/
theorem encodeCode_of_decodeByte {b : Byte} {i : Instr} (h : decodeByte b = .ok i) :
    encodeCode i = .bus (busWord false false b) := by
  unfold decodeByte at h
  repeat' split at h
  all_goals cases h
  all_goals
    refine congrArg (fun c => Code.bus (busWord false false c)) (BitVec.eq_of_getLsbD_eq fun k hk => ?_)
    interval_cases k <;> simp_all

/-- The instruction decoded from a bus word has that word (30_encoding.md R69, R75). -/
theorem encodeCode_of_decodeBus {w : BitVec 10} {i : Instr} (h : decodeBus w = .ok i) : encodeCode i = .bus w := by
  have hw := busWord_fields w
  rw [decodeBus] at h
  cases hrs : busRs w <;> cases hrw : busRw w <;> rw [hrs, hrw] at hw h
  · rw [encodeCode_of_decodeByte h, hw]
  · cases h
  · cases h
    exact congrArg Code.bus hw
  · cases h
    exact congrArg Code.bus hw

/-- A word with RS = 0 and RW = 1 is an instruction read, whatever its byte (30_encoding.md R73). -/
theorem decodeBus_instructionRead (b : Byte) : decodeBus (busWord false true b) = .error .instructionRead := by
  simp [decodeBus]

/-- A word with RS = 0 and RW = 0 is decoded by its byte (30_encoding.md R69, R75). -/
theorem decodeBus_instructionWrite (b : Byte) : decodeBus (busWord false false b) = decodeByte b := by
  simp [decodeBus]

end Sys2Proof

namespace Sys2Proof.Proofs

open Sys2Proof Sys2Proof.Machine

/-- Settles O2: the bytes give the word back, and the word the instruction. -/
theorem decodeOfEncode : Obligations.DecodeOfEncode := by
  intro i h
  rw [decode, encode, codeOfBytes_bytes]
  exact decodeCode_encodeCode i h

/-- Settles O3: RS and RW choose the kind of word, and an instruction write has the word of its byte. -/
theorem busWordsEncodeBack : Obligations.BusWordsEncodeBack := fun _ _ => encodeCode_of_decodeBus

/-- Settles O1: each word is a literal. -/
theorem sampleWordsDecode : Obligations.SampleWordsDecode := by
  unfold Obligations.SampleWordsDecode
  decide

/-- Settles O8: an instruction read is rejected before its byte is looked at, and the 256 bytes of instruction writes are
decoded one by one. -/
theorem unencodedBytes : Obligations.UnencodedBytes := by
  refine ⟨fun b => ?_, decodeBus_instructionRead⟩
  rw [decodeBus_instructionWrite]
  revert b
  decide

/-- Settles O6: flags are enumerated, and an address is compared bit by bit. -/
theorem encoderFollowsLayout : Obligations.EncoderFollowsLayout := by
  refine ⟨rfl, rfl, by decide, by decide, by decide, by decide, fun a => ?_, fun a => ?_⟩
  · refine BitVec.eq_of_getLsbD_eq fun k hk => ?_
    rw [encCgram, BitVec.getLsbD_append]
    interval_cases k <;> simp
  · refine BitVec.eq_of_getLsbD_eq fun k hk => ?_
    rw [encDdram, BitVec.getLsbD_append]
    interval_cases k <;> simp

end Sys2Proof.Proofs
end

section
/-! PROOF. What a request's step reads of its word: OP, and what the request with that OP uses (30_encoding.md R61 to R67,
60_exceptions.md R155). -/

namespace Sys2Proof

/-- Bit 0 of REQ is bit 0 of OP (30_encoding.md R61). -/
theorem getLsbD_zero_eq_reqOp (req : BitVec 32) : req.getLsbD 0 = (reqOp req).getLsbD 0 := by simp [reqOp]

/-- Two request words of one OP decode alike if they agree in PD where the request is executed, and in the flags, the ARG
and the LB it uses (30_encoding.md R62, R64, R65, R66). -/
theorem decodeRequest_congr {req req' : BitVec 32} {lb lb' : BitVec 128} (hop : reqOp req = reqOp req')
    (hpd : (reqOp req).toNat < 0xD → reqPd req = reqPd req')
    (harg : (reqOp req).toNat ∈ [0x1, 0x2, 0xA, 0xB] → reqArg req = reqArg req')
    (hflags : (reqOp req).toNat ∈ [0x6, 0x7, 0x8, 0x9] →
      reqFlag req 0 = reqFlag req' 0 ∧ reqFlag req 1 = reqFlag req' 1)
    (hflag2 : (reqOp req).toNat ∈ [0x7, 0x9] → reqFlag req 2 = reqFlag req' 2)
    (hlb : (reqOp req).toNat = 0xC → lb = lb') : decodeRequest req lb = decodeRequest req' lb' := by
  have hbit : req.getLsbD 0 = req'.getLsbD 0 := by
    rw [getLsbD_zero_eq_reqOp, getLsbD_zero_eq_reqOp, hop]
  have hlt := (reqOp req).isLt
  unfold decodeRequest
  rw [← hop]
  generalize (reqOp req).toNat = n at *
  interval_cases n <;> simp_all

/-- The fields of REQ are at other bits than RSV (30_encoding.md R61, R67). -/
theorem decodeRequest_rsv (req : BitVec 32) (lb : BitVec 128) :
    decodeRequest (req ^^^ 0x80) lb = decodeRequest req lb := by
  apply decodeRequest_congr
  · simp [reqOp, BitVec.extractLsb'_xor]
  · simp [reqPd, BitVec.extractLsb'_xor]
  · simp [reqArg, BitVec.extractLsb'_xor]
  · simp [reqFlag]
  · simp [reqFlag]
  · simp

namespace Machine

/-- The step of a placed request runs its meaning, on a state that does not depend on the request. -/
theorem step_withRequest (s : State) (r r' : Request) : step (s.withRequest r) =
    exec (decodeRequest r.req r.lb) (s.withRequest r').beginTick.takeRequest := by
  have hlegal : (s.withRequest r).rspErr ≠ rspReserved := by simp [State.withRequest, rspReserved]
  exact step_request (s.withRequest r) hlegal rfl rfl r rfl

/-- A request other than INIT is rejected in UNINIT, whatever it holds but its OP (60_exceptions.md R155, R156). -/
theorem exec_decodeRequest_uninit {s : State} (hs : s.session = .uninit) {req : BitVec 32} (hne : reqOp req ≠ 0x0)
    (lb : BitVec 128) :
    exec (decodeRequest req lb) s =
      .next (s.raise (if 0xD ≤ (reqOp req).toNat then rspIllegal else rspNotReady)) := by
  obtain ⟨ms, hexec⟩ := exec_decodeRequest req lb s
  rw [hexec]
  split
  case isTrue hillegal => rw [State.accept_illegal s _ ms hillegal]
  case isFalse hlegal => rw [State.accept_uninit s _ ms (Nat.lt_of_not_le hlegal) hne hs]

end Machine

end Sys2Proof

namespace Sys2Proof.Proofs

open Sys2Proof Sys2Proof.Machine

/-- Settles O4: the two words decode to the same request. -/
theorem reservedBitIgnored : Obligations.ReservedBitIgnored := by
  intro s req lb
  rw [step_withRequest s _ ⟨req, lb⟩, step_withRequest s ⟨req, lb⟩ ⟨req, lb⟩, decodeRequest_rsv]

/-- Settles O5: the two words decode to the same request, but for requests that are rejected in UNINIT. -/
theorem unusedFieldsIgnored : Obligations.UnusedFieldsIgnored := by
  intro s r r' hop hinit hready
  rw [step_withRequest s r r, step_withRequest s r' r]
  cases hs : s.session with
  | ready =>
    obtain ⟨hpd, harg, hflags, hflag2, hlb⟩ := hready hs
    rw [decodeRequest_congr hop hpd harg hflags hflag2 hlb]
  | uninit =>
    by_cases hzero : reqOp r.req = 0x0
    · have hpd := hinit hzero
      rw [decodeRequest_congr hop (fun _ => hpd)] <;> simp [hzero]
    · have hsession : (s.withRequest r).beginTick.takeRequest.session = .uninit := hs
      rw [exec_decodeRequest_uninit hsession hzero, exec_decodeRequest_uninit hsession (hop ▸ hzero), hop]

end Sys2Proof.Proofs
end

section
/-! PROOF. A falling edge of E at which the controller gets no word of the spec (30_encoding.md R72, R73,
70_reset_and_hazards.md R182, R183, 93_implementation_defined.md U5). -/

namespace Sys2Proof.Machine

open Sys2Proof

/-- The attached controller sees no word of the spec: the pulse is too short or set up too late, the lines carry no
known word, or the word decodes to no instruction. -/
abbrev State.wordUnseen (u : State) : Prop :=
  u.pulseGood = true → ∀ w, u.wordOnLines = some w → ∃ e, decodeBus w = .error e

/-- A falling edge of E with no word of the spec loses the attached controller's state (93_implementation_defined.md U5). -/
theorem fallE_of_unseen {u : State} (ha : u.env.attached = true) (h : u.wordUnseen) :
    fallE u = .done u.loweredE.latchUnknown := by
  obtain ⟨hdetached, -⟩ | ⟨-, hfall⟩ | ⟨w, i, -, hgood, hw, hdec, -⟩ := fallE_cases u
  · cases ha.symm.trans hdetached
  · exact hfall
  · obtain ⟨e, herr⟩ := h hgood w hw
    cases hdec.symm.trans herr

/-- The word on the lines in the directions the block uses: the byte of a read is the sampled one, that of a write the
driven one (30_encoding.md R69). -/
theorem State.wordOnLines_eq {u : State} (h : ¬ (u.rwO = false ∧ u.dir = .input)) :
    u.wordOnLines = some (busWord u.rsO u.rwO (if u.rwO then u.rdata else u.dbO)) := by
  cases hrw : u.rwO
  · cases hdir : u.dir
    · exact absurd ⟨hrw, hdir⟩ h
    · exact State.wordOnLines_of (.inr ⟨hrw, hdir, rfl⟩)
  · exact State.wordOnLines_of (.inl ⟨hrw, rfl⟩)

/-- The settling time after that word (41_encoder.md R110). -/
theorem State.neededAfterWord_eq {u : State} (h : ¬ (u.rwO = false ∧ u.dir = .input)) :
    u.neededAfterWord = settlingFloor u.cfg u.rsO u.rwO (if u.rwO then u.rdata else u.dbO) := by
  simp [State.neededAfterWord, State.wordOnLines_eq h]

/-- No word is on undriven lines in a write (notes/assumptions/22.md). -/
theorem State.wordOnLines_undriven {u : State} (hrw : u.rwO = false) (hdir : u.dir = .input) : u.wordOnLines = none := by
  simp [State.wordOnLines, hrw, hdir]

/-- A pulse is good if it lasts T_EH and T_SETUP is no longer than a tick (70_reset_and_hazards.md R182, R183). -/
theorem State.pulseGood_iff (u : State) :
    u.pulseGood = true ↔ u.cfg.tEH ≤ u.ctrl.sinceEdge ∧ u.cfg.tSetup ≤ u.cfg.tTick := by
  simp [State.pulseGood, State.setupMet]

end Sys2Proof.Machine

namespace Sys2Proof.Proofs

open Sys2Proof Sys2Proof.Machine

/-- Settles O21: in each of the four cases no word is seen, and the tick is the falling edge that loses the controller. -/
theorem unseenWordLosesController : Obligations.UnseenWordLosesController := by
  intro s rest hr hrst hq ht hm he hatt hcase
  have hunseen : (s.beginTick.withMq rest).wordUnseen := by
    intro hgood w hw
    obtain ⟨hwide, hsetup⟩ := (State.pulseGood_iff _).1 hgood
    simp only [State.withMq_ctrl, State.withMq_cfg, State.beginTick_ctrl, State.beginTick_cfg,
      Controller.elapse_sinceEdge] at hwide hsetup
    obtain hshort | hlate | ⟨hrw, hdir⟩ | ⟨v, e, hdec, hline⟩ := hcase
    · omega
    · omega
    · rw [State.wordOnLines_undriven (u := s.beginTick.withMq rest) hrw hdir] at hw
      cases hw
    · cases (State.wordOnLines_of (s := s.beginTick.withMq rest) hline).symm.trans hw
      exact ⟨e, hdec⟩
  rw [step_microOp s hr hrst hq ht _ rest hm, runMicroOp, setE_false_of_high (u := s.beginTick.withMq rest) he,
    fallE_of_unseen (u := s.beginTick.withMq rest) hatt hunseen, Fetched.outcome]
  exact ⟨_, rfl, rfl, rfl, rfl, rfl, rfl, rfl, rfl, State.neededAfterWord_eq (u := s.beginTick.withMq rest)⟩

end Sys2Proof.Proofs
end

section
/-! PROOF. CUR_OP matters only at the completion of a request, and there only whether it is INIT or READ_BYTE
(42_session_init.md R120): states that differ in it otherwise run alike (30_encoding.md R77). -/

namespace Sys2Proof.Machine

open Sys2Proof

/-- CUR_OP is replaced. -/
def State.withOp (s : State) (op : BitVec 4) : State := { s with curOp := op }

/-- `t` is `u` but for CUR_OP, and both or neither run INIT, and both or neither READ_BYTE. -/
inductive State.SameButOp (u : State) : State → Prop
  | withOp (op : BitVec 4) (init : op = 0x0 ↔ u.curOp = 0x0) (read : op = 0x3 ↔ u.curOp = 0x3) :
      SameButOp u (u.withOp op)

/-- All other registers are equal. -/
theorem State.SameButOp.eq {u t : State} (h : u.SameButOp t) : t = { u with curOp := t.curOp } := by
  obtain ⟨op, -, -⟩ := h
  rfl

/-- E and RW are two of them. -/
theorem State.SameButOp.eO_rwO {u t : State} (h : u.SameButOp t) : t.eO = u.eO ∧ t.rwO = u.rwO := by
  obtain ⟨op, -, -⟩ := h
  exact ⟨rfl, rfl⟩

theorem State.SameButOp.refl (u : State) : u.SameButOp u := .withOp u.curOp Iff.rfl Iff.rfl

/-- Two outcomes are alike: next states that are, the same fault, or the same refusal. -/
inductive OutcomesAlike : Host.Outcome State Fault Refusal → Host.Outcome State Fault Refusal → Prop
  | next {u t : State} (h : u.SameButOp t) : OutcomesAlike (.next u) (.next t)
  | fault (r : Fault) : OutcomesAlike (.fault r) (.fault r)
  | refused (r : Refusal) : OutcomesAlike (.refused r) (.refused r)

/-! ## One tick -/

/-- The acceptance check does not read CUR_OP, and a request that starts sets it (42_session_init.md R117, R118). -/
theorem State.SameButOp.accept {u t : State} (h : u.SameButOp t) (op : BitVec 4) (ms : List MicroOp) :
    (u.accept op ms).SameButOp (t.accept op ms) := by
  obtain ⟨op', hinit, hread⟩ := h
  obtain ⟨hillegal, hu⟩ | ⟨hlegal, hne, hs, hu⟩ | ⟨hlegal, hstart, hu⟩ := u.accept_cases op ms
  · rw [hu, State.accept_illegal (u.withOp op') op ms hillegal]
    exact .withOp op' hinit hread
  · rw [hu, State.accept_uninit (u.withOp op') op ms hlegal hne hs]
    exact .withOp op' hinit hread
  · have ht : (u.withOp op').accept op ms = u.accept op ms := by
      rw [hu, State.accept, if_neg (Nat.not_le.2 hlegal), if_neg]
      · rfl
      · rintro ⟨hne, hs⟩
        cases (hstart.resolve_left hne).symm.trans hs
    rw [ht]
    exact .refl _

/-- No meaning reads CUR_OP. -/
theorem exec_sameButOp (i : Instr) {u t : State} (h : u.SameButOp t) : OutcomesAlike (exec i u) (exec i t) := by
  obtain ⟨op, hinit, hread⟩ := h
  have hsame : u.SameButOp (u.withOp op) := .withOp op hinit hread
  cases i
  case writeTwoLines line1 line2 pd =>
    by_cases hlen : line1.length = rowLen ∧ line2.length = rowLen
    · obtain ⟨h1, h2⟩ := hlen
      rw [exec_writeTwoLines pd u h1 h2, exec_writeTwoLines pd _ h1 h2]
      exact .next (hsame.accept 0xC _)
    · simp only [exec, execWriteTwoLines, if_neg hlen]
      exact .refused _
  case init | command | writeByte | readByte | clearDisplay | returnHome | entryModeSet | displayOnOff
      | cursorDisplayShift | functionSet | setCgramAddress | setDdramAddress | reservedD | reservedEF =>
    exact .next (hsame.accept _ _)
  all_goals exact .next (.withOp op hinit hread)

/-- Two ticks come to alike things: states that are the same but for CUR_OP, with the same instruction to run, or the
same fault. -/
inductive Fetched.Alike : Fetched → Fetched → Prop
  | done {u t : State} (h : u.SameButOp t) : Alike (.done u) (.done t)
  | run (i : Instr) {u t : State} (h : u.SameButOp t) : Alike (.run i u) (.run i t)
  | stop (r : Fault) : Alike (.stop r) (.stop r)

/-- Alike things have alike outcomes. -/
theorem Fetched.Alike.outcome {x y : Fetched} (h : x.Alike y) : OutcomesAlike x.outcome y.outcome := by
  cases h with
  | done h => exact .next h
  | run i h => exact exec_sameButOp i h
  | stop r => exact .fault r

/-- A falling edge of E does not read CUR_OP: neither the pulse nor the word on the lines depends on it. -/
theorem fallE_sameButOp {u t : State} (h : u.SameButOp t) : (fallE u).Alike (fallE t) := by
  obtain ⟨op, hinit, hread⟩ := h
  have henv : (u.withOp op).env = u.env := rfl
  have hpulse : (u.withOp op).pulseGood = u.pulseGood := rfl
  have hword : (u.withOp op).wordOnLines = u.wordOnLines := rfl
  rw [fallE, fallE, henv, hpulse, hword]
  split
  · split
    · split
      · split
        · exact .run _ (.withOp op hinit hread)
        · exact .done (.withOp op hinit hread)
      · exact .done (.withOp op hinit hread)
    · exact .done (.withOp op hinit hread)
  · exact .done (.withOp op hinit hread)

/-- A rising edge of E does not read CUR_OP. -/
theorem riseE_sameButOp {u t : State} (h : u.SameButOp t) : (riseE u).Alike (riseE t) := by
  obtain ⟨op, hinit, hread⟩ := h
  obtain ⟨ha, hshort, hu⟩ | ⟨hsettled, hu⟩ := riseE_cases u
  · have ht : riseE (u.withOp op) = .stop .settlingViolated := if_pos ⟨ha, hshort⟩
    rw [hu, ht]
    exact .stop _
  · have ht : riseE (u.withOp op) = _ := if_neg hsettled
    rw [hu, ht]
    exact .done (.withOp op hinit hread)

/-- No micro-op reads CUR_OP (40_transport.md R81). -/
theorem runMicroOp_sameButOp (m : MicroOp) {u t : State} (h : u.SameButOp t) :
    (runMicroOp m u).Alike (runMicroOp m t) := by
  obtain ⟨he, -⟩ := h.eO_rwO
  cases m with
  | setE v =>
    rw [runMicroOp, runMicroOp]
    unfold setE
    rw [he]
    split
    · exact riseE_sameButOp h
    · exact fallE_sameButOp h
    · exact .done h
    · exact .done h
  | dirOut | dirIn | drive _ | setRs _ | setRw _ | sample | wait _ =>
    obtain ⟨op, hinit, hread⟩ := h
    exact .done (.withOp op hinit hread)

/-- A completion reads of CUR_OP whether it is READ_BYTE and whether it is INIT (42_session_init.md R120). -/
theorem State.SameButOp.complete {u t : State} (h : u.SameButOp t) : u.complete.SameButOp t.complete := by
  obtain ⟨op, hinit, hread⟩ := h
  have ht : (u.withOp op).complete = u.complete.withOp op := by
    show State.complete { u with curOp := op } = { u.complete with curOp := op }
    simp only [State.complete, hinit, hread]
  rw [ht]
  exact .withOp op hinit hread

/-- The start of a tick does not read CUR_OP. -/
theorem State.SameButOp.beginTick {u t : State} (h : u.SameButOp t) : u.beginTick.SameButOp t.beginTick := by
  obtain ⟨op, hinit, hread⟩ := h
  exact .withOp op hinit hread

/-- Code 3 stops every tick (60_exceptions.md R158). -/
theorem step_reservedResponse {s : State} (h : s.rspErr = rspReserved) : step s = .fault .reservedResponse := by
  simp [step, fetch, h]

/-- A tick from states that are the same but for CUR_OP comes to the same but for CUR_OP. -/
theorem step_sameButOp {u t : State} (h : u.SameButOp t) : OutcomesAlike (step u) (step t) := by
  have hbegin := h.beginTick
  obtain ⟨op, hinit, hread⟩ := h
  by_cases hr : u.rspErr = rspReserved
  · rw [step_reservedResponse hr, step_reservedResponse (s := u.withOp op) hr]
    exact .fault _
  cases hrst : u.rst
  case true =>
    rw [step_rst u hr hrst, step_rst (u.withOp op) hr hrst]
    exact .next (.refl _)
  cases hq : u.seq
  case idle =>
    cases hp : u.presented with
    | none =>
      rw [step_quiet u hr hrst hq hp, step_quiet (u.withOp op) hr hrst hq hp]
      exact .next hbegin
    | some r =>
      rw [step_request u hr hrst hq r hp, step_request (u.withOp op) hr hrst hq r hp]
      exact exec_sameButOp _ (.withOp op hinit hread)
  case run =>
    by_cases ht : u.timer = 0
    · cases hm : u.mq with
      | nil =>
        rw [step_complete u hr hrst hq ht hm, step_complete (u.withOp op) hr hrst hq ht hm]
        exact .next hbegin.complete
      | cons m rest =>
        rw [step_microOp u hr hrst hq ht m rest hm, step_microOp (u.withOp op) hr hrst hq ht m rest hm]
        have hmq : (u.beginTick.withMq rest).SameButOp ((u.withOp op).beginTick.withMq rest) := .withOp op hinit hread
        exact (runMicroOp_sameButOp m hmq).outcome
    · rw [step_wait u hr hrst hq ht, step_wait (u.withOp op) hr hrst hq ht]
      exact .next (.withOp op hinit hread)

/-! ## What is observed of a run -/

/-- What does not read CUR_OP is the same of the states of every tick. -/
theorem State.SameButOp.map_statesOf {α : Type} {f : State → α}
    (hf : ∀ (u : State) (op : BitVec 4), f (u.withOp op) = f u) {u t : State} (h : u.SameButOp t) (n : Nat) :
    (statesOf n t).map f = (statesOf n u).map f := by
  induction n generalizing u t with
  | zero => rfl
  | succ n ih =>
    have hhead : f t = f u := by
      obtain ⟨op, -, -⟩ := h
      exact hf u op
    have hstep := step_sameButOp h
    rw [statesOf, statesOf]
    cases hu : step u <;> cases ht : step t <;> rw [hu, ht] at hstep <;> cases hstep
    case next.next hnext => simp [hhead, ih hnext]
    all_goals simp [hhead]

/-- The words latched are the same (20_memory.md R43). -/
theorem State.SameButOp.latchedWords {u t : State} (h : u.SameButOp t) (n : Nat) :
    latchedWords n t = latchedWords n u := by
  induction n generalizing u t with
  | zero => rfl
  | succ n ih =>
    have hword : t.latchedWord = u.latchedWord := by
      obtain ⟨op, -, -⟩ := h
      rfl
    have hstep := step_sameButOp h
    rw [Machine.latchedWords, Machine.latchedWords]
    cases hu : step u <;> cases ht : step t <;> rw [hu, ht] at hstep <;> cases hstep
    case next.next hnext => simp only [hword, h.eO_rwO, hnext.eO_rwO, ih hnext]

/-- The line trace is the same. -/
theorem State.SameButOp.lineTrace {u t : State} (h : u.SameButOp t) (n : Nat) : lineTrace n t = lineTrace n u :=
  h.map_statesOf (fun _ _ => rfl) n

/-- The responses of a run as a function of the response of each tick. -/
theorem responses_eq (n : Nat) (s : State) : responses n s =
    ((statesOf n s).map State.response).zipIdx.filterMap fun p => p.1.map fun r => (p.2, r) := by
  simp [responses, List.zipIdx_map, List.filterMap_map]

/-- The responses are the same. -/
theorem State.SameButOp.responses {u t : State} (h : u.SameButOp t) (n : Nat) : responses n t = responses n u := by
  rw [responses_eq, responses_eq, h.map_statesOf (fun _ _ => rfl) n]

/-- The end of a run as a function of whether it is over in each tick. -/
theorem runEnd_eq (n : Nat) (s : State) : runEnd n s =
    ((statesOf n s).map fun u => decide u.runOver).findIdx? id := by
  simp [runEnd, List.findIdx?_map]

/-- The observation is the same. -/
theorem State.SameButOp.observe {u t : State} (h : u.SameButOp t) (n : Nat) : observe n t = observe n u := by
  have hend : runEnd n t = runEnd n u := by
    rw [runEnd_eq, runEnd_eq, h.map_statesOf (fun _ _ => rfl) n]
  simp only [Machine.observe, hend, h.lineTrace, h.responses, h.latchedWords]

/-! ## The request -/

/-- In READY a request other than INIT and READ_BYTE starts as COMMAND does with its micro-program, but for CUR_OP
(42_session_init.md R117, R118). -/
theorem State.accept_sameButOp {s : State} (hs : s.session = .ready) {op : BitVec 4} (hinit : op ≠ 0x0)
    (hread : op ≠ 0x3) (hlegal : op.toNat < 0xD) (ms : List MicroOp) :
    (s.accept 0x1 ms).SameButOp (s.accept op ms) := by
  have hstart : s.start op ms = (s.start 0x1 ms).withOp op := by
    rw [State.start, if_neg hinit, if_neg hinit]
    rfl
  rw [State.accept_ready s op ms hlegal hs, State.accept_ready s 0x1 ms (by decide) hs, hstart]
  exact .withOp op (iff_of_false hinit (by decide : (0x1 : BitVec 4) ≠ 0x0))
    (iff_of_false hread (by decide : (0x1 : BitVec 4) ≠ 0x3))

/-- A request of one instruction write, other than INIT and READ_BYTE, runs as COMMAND with its byte (30_encoding.md R77). -/
theorem exec_named_eq_command {s : State} (hs : s.session = .ready) {i : Instr} {op : BitVec 4} {b : Byte}
    {pd : BitVec 16} (hi : exec i s = .next (s.accept op (single s.cfg pd (.write false b))))
    (hop : op ≠ 0x0 ∧ op ≠ 0x3 ∧ op.toNat < 0xD) (n : Nat) :
    ∃ t u, exec i s = .next t ∧ exec (.command b pd) s = .next u ∧ t = { u with curOp := t.curOp } ∧
      lineTrace n t = lineTrace n u ∧ responses n t = responses n u ∧ observe n t = observe n u := by
  obtain ⟨hinit, hread, hlegal⟩ := hop
  have hsame := State.accept_sameButOp hs hinit hread hlegal (single s.cfg pd (.write false b))
  exact ⟨_, _, hi, rfl, hsame.eq, hsame.lineTrace n, hsame.responses n, hsame.observe n⟩

end Sys2Proof.Machine

namespace Sys2Proof.Proofs

open Sys2Proof Sys2Proof.Machine

/-- Settles O16: each request is accepted with the micro-program of COMMAND. -/
theorem namedRequestsAreCommands : Obligations.NamedRequestsAreCommands := by
  intro s pd a f g h n hs p hp
  simp only [List.mem_cons, List.not_mem_nil, or_false] at hp
  obtain rfl | rfl | rfl | rfl | rfl | rfl | rfl | rfl := hp
  all_goals exact exec_named_eq_command hs rfl (by decide) n

end Sys2Proof.Proofs
end

section
/-! PROOF. The assembler (30_encoding.md R76): what it accepts is well-formed, and how the words of a line become
tokens and these a request. -/

namespace Sys2Proof.Machine

open Sys2Proof

/-! ## What is accepted -/

/-- A line operand that is accepted has 8 bytes (93_implementation_defined.md U1). -/
theorem length_of_lineOperand {o : Operand} {bs : List Byte} (h : lineOperand o = some bs) : bs.length = rowLen := by
  unfold lineOperand at h
  simpa using (Option.filter_eq_some_iff.1 h).2

/-- The request of an operation is well-formed. -/
theorem wf_of_requestOf {op : List Char} {os : List Operand} {pd : BitVec 16} {i : Instr}
    (h : requestOf op os pd = some i) : i.wf = true := by
  unfold requestOf at h
  split at h
  case h_5 => -- two lines
    split at h
    case h_1 line1 line2 h1 h2 =>
      split at h
      · cases h
        simp [Instr.wf, length_of_lineOperand h1, length_of_lineOperand h2]
      · cases h
    case h_2 => cases h
  all_goals
    repeat' split at h
    all_goals cases h
    all_goals rfl

/-- A line that is accepted has the request of its operation. -/
theorem requestOf_of_assemble {line : List Char} {i : Instr} (h : assemble line = .request i) :
    ∃ op os pd, requestOf op os pd = some i := by
  unfold assemble at h
  repeat' split at h
  all_goals cases h
  exact ⟨_, _, _, ‹_›⟩

/-! ## Words and tokens -/

/-- A run of letters, digits and underscores, with the token it stands for. -/
structure IsWord (w : List Char) (t : Token) : Prop where
  run : w.all isRunChar = true
  token : runToken w = some t

/-- `cs` goes on with the tokens `ts` after any word before it. -/
def Follows (cs : List Char) (ts : List Token) : Prop :=
  ∀ w t, IsWord w t → lex (.run []) (w ++ cs) = some (t :: ts)

/-- The lexer gathers the characters of a run. -/
theorem lex_run_append {w : List Char} (h : w.all isRunChar = true) (acc cs : List Char) :
    lex (.run acc) (w ++ cs) = lex (.run (w.reverse ++ acc)) cs := by
  induction w generalizing acc with
  | nil => rfl
  | cons c w ih =>
    obtain ⟨hc, hw⟩ := Bool.and_eq_true_iff.1 h
    rw [List.cons_append, lex, if_pos hc, ih hw, List.reverse_cons, List.append_assoc]
    rfl

/-- A word that has been read stands before the tokens that follow. -/
theorem flushRun_word {w : List Char} {t : Token} (h : IsWord w t) (rest : Option (List Token)) :
    flushRun w.reverse rest = rest.map (t :: ·) := by
  obtain ⟨-, ht⟩ := h
  cases hw : w.reverse with
  | nil =>
    rw [List.reverse_eq_nil_iff.1 hw] at ht
    cases ht
  | cons c acc =>
    have hacc : runToken (c :: acc).reverse = some t := by rw [← hw, List.reverse_reverse, ht]
    cases rest <;> simp only [flushRun, hacc, Option.map_none, Option.map_some]

theorem lex_word {w : List Char} {t : Token} (h : IsWord w t) (cs : List Char) :
    lex (.run []) (w ++ cs) = lex (.run w.reverse) cs := by
  rw [lex_run_append h.run, List.append_nil]

/-- The end of the line. -/
theorem follows_nil : Follows [] [] := fun w t h => by
  rw [lex_word h, lex, flushRun_word h]
  rfl

/-- A separator, with its tokens, and a word. -/
theorem Follows.separated {cs : List Char} {ts : List Token} (h : Follows cs ts) {w : List Char} {t : Token}
    (hw : IsWord w t) {sep : List Char} {ss : List Token}
    (hsep : ∀ acc cs, lex (.run acc) (sep ++ cs) = flushRun acc ((lex (.run []) cs).map (ss ++ ·))) :
    Follows (sep ++ (w ++ cs)) (ss ++ t :: ts) := fun v u hv => by
  rw [lex_word hv, hsep, flushRun_word hv, h w t hw]
  rfl

theorem Follows.space {cs : List Char} {ts : List Token} (h : Follows cs ts) {w : List Char} {t : Token}
    (hw : IsWord w t) : Follows (' ' :: (w ++ cs)) (t :: ts) :=
  h.separated hw (sep := [' ']) (ss := []) fun acc _ => congrArg (flushRun acc) Option.map_id'.symm

theorem Follows.comma {cs : List Char} {ts : List Token} (h : Follows cs ts) {w : List Char} {t : Token}
    (hw : IsWord w t) : Follows (',' :: ' ' :: (w ++ cs)) (.comma :: t :: ts) :=
  h.separated hw (sep := [',', ' ']) (ss := [.comma]) fun _ _ => rfl

theorem Follows.equals {cs : List Char} {ts : List Token} (h : Follows cs ts) {w : List Char} {t : Token}
    (hw : IsWord w t) : Follows ('=' :: (w ++ cs)) (.equals :: t :: ts) :=
  h.separated hw (sep := ['=']) (ss := [.equals]) fun _ _ => rfl

/-! ## Numbers -/

/-- The hexadecimal digit of the low 4 bits of a number. -/
def hexDigit (n : Nat) : Char := Nat.digitChar (n % 16)

theorem isRunChar_hexDigit (n : Nat) : isRunChar (hexDigit n) = true := by
  have hdigit : ∀ d < 16, isRunChar (Nat.digitChar d) = true := by decide
  exact hdigit _ (Nat.mod_lt n (by decide))

theorem digitVal_hexDigit (n : Nat) : digitVal 16 (hexDigit n) = some (n % 16) := by
  have hdigit : ∀ d < 16, digitVal 16 (Nat.digitChar d) = some d := by decide
  exact hdigit _ (Nat.mod_lt n (by decide))

/-- A byte in hexadecimal. -/
def byteText (b : Byte) : List Char := ['0', 'x', hexDigit (b.toNat / 16), hexDigit b.toNat]

theorem isWord_byte (b : Byte) : IsWord (byteText b) (.num b.toNat) where
  run := by
    have h0 : isRunChar '0' = true ∧ isRunChar 'x' = true := by decide
    simp [byteText, h0, isRunChar_hexDigit]
  token := by
    have hb := b.isLt
    simp only [byteText, runToken, digitsVal, digitVal_hexDigit, Option.map_some, Option.some.injEq, Token.num.injEq]
    omega

/-- A post-delay in hexadecimal. -/
def delayText (pd : BitVec 16) : List Char :=
  ['0', 'x', hexDigit (pd.toNat / 4096), hexDigit (pd.toNat / 256), hexDigit (pd.toNat / 16), hexDigit pd.toNat]

theorem isWord_delay (pd : BitVec 16) : IsWord (delayText pd) (.num pd.toNat) where
  run := by
    have h0 : isRunChar '0' = true ∧ isRunChar 'x' = true := by decide
    simp [delayText, h0, isRunChar_hexDigit]
  token := by
    have hpd := pd.isLt
    simp only [delayText, runToken, digitsVal, digitVal_hexDigit, Option.map_some, Option.some.injEq, Token.num.injEq]
    omega

/-- The digit of a flag. -/
def flagText (f : Bool) : List Char := if f then ['1'] else ['0']

theorem isWord_flag (f : Bool) : IsWord (flagText f) (.num f.toNat) := by
  cases f
  · exact ⟨by decide, rfl⟩
  · exact ⟨by decide, rfl⟩

theorem flagOperand_toNat (f : Bool) : flagOperand f.toNat = some f := by cases f <;> rfl

theorem byteOperand_toNat (b : Byte) : byteOperand b.toNat = some b := by
  have hb : b.toNat < 256 := b.isLt
  simp [byteOperand, hb]

theorem pdOperand_toNat (pd : BitVec 16) : pdOperand pd.toNat = some pd := by
  have hpd : pd.toNat < 65536 := pd.isLt
  simp [pdOperand, hpd]

/-! ## The post-delay -/

/-- `cs` ends a line, with the tokens `ds` that give the post-delay `pd` after operands that have no equals sign. -/
structure IsDelay (cs : List Char) (ds : List Token) (pd : BitVec 16) : Prop where
  follows : Follows cs ds
  split : ∀ ts, Token.equals ∉ ts → splitPd (ts ++ ds) = (ts, pd.toNat)

/-- No post-delay is one of 0. -/
theorem isDelay_none : IsDelay [] [] 0 where
  follows := follows_nil
  split ts hts := by
    rw [List.append_nil]
    unfold splitPd
    split
    case h_1 n rest hrev =>
      have hmem : Token.equals ∈ ts.reverse := by simp [hrev]
      exact absurd (List.mem_reverse.1 hmem) hts
    case h_2 => rfl

/-- A post-delay in hexadecimal. -/
theorem isDelay_hex (pd : BitVec 16) :
    IsDelay (", pd=".toList ++ delayText pd) [.comma, .name "pd".toList, .equals, .num pd.toNat] pd where
  follows := (follows_nil.equals (isWord_delay pd)).comma (w := "pd".toList) ⟨by decide, rfl⟩
  split ts _ := by simp [splitPd]

/-! ## Lines -/

/-- A line of a name, operands and a post-delay. -/
theorem assemble_request {op : List Char} (hop : IsWord op (.name op)) {cs rest : List Char} {ts ds : List Token}
    {pd : BitVec 16} (hdelay : IsDelay cs ds pd) (hrest : Follows rest (ts ++ ds)) (hequals : Token.equals ∉ ts)
    {os : List Operand} (hos : parseOperands .first ts = some os) {i : Instr} (hi : requestOf op os pd = some i) :
    assemble (op ++ rest) = .request i := by
  simp only [assemble, hrest op _ hop, hdelay.split ts hequals, hos, pdOperand_toNat, hi]

section
variable {op cs : List Char} {ds : List Token} {pd : BitVec 16} (hdelay : IsDelay cs ds pd) (hop : IsWord op (.name op))
  {i : Instr}
include hdelay hop

theorem assemble_plain (hi : requestOf op [] pd = some i) : assemble (op ++ cs) = .request i :=
  assemble_request hop hdelay (ts := []) hdelay.follows (by simp) rfl hi

theorem assemble_byte {b : Byte} (hi : requestOf op [.num b.toNat] pd = some i) :
    assemble (op ++ ' ' :: (byteText b ++ cs)) = .request i :=
  assemble_request hop hdelay (ts := [.num b.toNat]) (hdelay.follows.space (isWord_byte b)) (by simp) rfl hi

theorem assemble_twoFlags {f g : Bool} (hi : requestOf op [.num f.toNat, .num g.toNat] pd = some i) :
    assemble (op ++ ' ' :: (flagText f ++ ',' :: ' ' :: (flagText g ++ cs))) = .request i :=
  assemble_request hop hdelay (ts := [.num f.toNat, .comma, .num g.toNat])
    ((hdelay.follows.comma (isWord_flag g)).space (isWord_flag f)) (by simp) rfl hi

theorem assemble_threeFlags {f g h : Bool}
    (hi : requestOf op [.num f.toNat, .num g.toNat, .num h.toNat] pd = some i) :
    assemble (op ++ ' ' :: (flagText f ++ ',' :: ' ' :: (flagText g ++ ',' :: ' ' :: (flagText h ++ cs)))) =
      .request i :=
  assemble_request hop hdelay (ts := [.num f.toNat, .comma, .num g.toNat, .comma, .num h.toNat])
    (((hdelay.follows.comma (isWord_flag h)).comma (isWord_flag g)).space (isWord_flag f)) (by simp) rfl hi

end

/-- The line forms but for that of WRITE_TWO_LINES, with their requests. -/
def lineForms (b : Byte) (f g h : Bool) (pd : BitVec 16) : List (List Char × Instr) :=
  [("initialize".toList, .init pd), ("command ".toList ++ byteText b, .command b pd),
    ("write_byte ".toList ++ byteText b, .writeByte b pd), ("read_byte".toList, .readByte pd),
    ("clear_display".toList, .clearDisplay pd), ("return_home".toList, .returnHome pd),
    ("entry_mode_set ".toList ++ flagText f ++ ", ".toList ++ flagText g, .entryModeSet f g pd),
    ("display_on_off ".toList ++ flagText f ++ ", ".toList ++ flagText g ++ ", ".toList ++ flagText h,
      .displayOnOff f g h pd),
    ("cursor_or_display_shift ".toList ++ flagText f ++ ", ".toList ++ flagText g, .cursorDisplayShift f g pd),
    ("function_set ".toList ++ flagText f ++ ", ".toList ++ flagText g ++ ", ".toList ++ flagText h,
      .functionSet f g h pd),
    ("set_cgram_address ".toList ++ byteText b, .setCgramAddress b pd),
    ("set_ddram_address ".toList ++ byteText b, .setDdramAddress b pd)]

/-- Each line form, with the end of a line that gives the post-delay, assembles to its request. -/
theorem assemble_lineForms (b : Byte) (f g h : Bool) {cs : List Char} {ds : List Token} {pd : BitVec 16}
    (hdelay : IsDelay cs ds pd) : ∀ p ∈ lineForms b f g h pd, assemble (p.1 ++ cs) = .request p.2 := by
  simp only [lineForms, List.forall_mem_cons]
  refine ⟨?_, ?_, ?_, ?_, ?_, ?_, ?_, ?_, ?_, ?_, ?_, ?_, List.forall_mem_nil _⟩
  case refine_1 | refine_4 | refine_5 | refine_6 => exact assemble_plain hdelay ⟨by decide, rfl⟩ rfl
  · have hi : requestOf "command".toList [.num b.toNat] pd = some (.command b pd) := by
      simp [requestOf, byteOperand_toNat]
    simpa using assemble_byte hdelay ⟨by decide, rfl⟩ hi
  · have hi : requestOf "write_byte".toList [.num b.toNat] pd = some (.writeByte b pd) := by
      simp [requestOf, byteOperand_toNat]
    simpa using assemble_byte hdelay ⟨by decide, rfl⟩ hi
  · have hi : requestOf "entry_mode_set".toList [.num f.toNat, .num g.toNat] pd = some (.entryModeSet f g pd) := by
      simp [requestOf, flagOperand_toNat]
    simpa using assemble_twoFlags hdelay ⟨by decide, rfl⟩ hi
  · have hi : requestOf "display_on_off".toList [.num f.toNat, .num g.toNat, .num h.toNat] pd =
        some (.displayOnOff f g h pd) := by simp [requestOf, flagOperand_toNat]
    simpa using assemble_threeFlags hdelay ⟨by decide, rfl⟩ hi
  · have hi : requestOf "cursor_or_display_shift".toList [.num f.toNat, .num g.toNat] pd =
        some (.cursorDisplayShift f g pd) := by simp [requestOf, flagOperand_toNat]
    simpa using assemble_twoFlags hdelay ⟨by decide, rfl⟩ hi
  · have hi : requestOf "function_set".toList [.num f.toNat, .num g.toNat, .num h.toNat] pd =
        some (.functionSet f g h pd) := by simp [requestOf, flagOperand_toNat]
    simpa using assemble_threeFlags hdelay ⟨by decide, rfl⟩ hi
  · have hi : requestOf "set_cgram_address".toList [.num b.toNat] pd = some (.setCgramAddress b pd) := by
      simp [requestOf, byteOperand_toNat]
    simpa using assemble_byte hdelay ⟨by decide, rfl⟩ hi
  · have hi : requestOf "set_ddram_address".toList [.num b.toNat] pd = some (.setDdramAddress b pd) := by
      simp [requestOf, byteOperand_toNat]
    simpa using assemble_byte hdelay ⟨by decide, rfl⟩ hi

end Sys2Proof.Machine

namespace Sys2Proof.Proofs

open Sys2Proof Sys2Proof.Machine

/-- Settles O11: the words of a line become tokens one by one, and the lines with literal operands are evaluated. -/
theorem assembledIsWellFormed : Obligations.AssembledIsWellFormed := by
  refine ⟨fun line i h => ?_, ?_, by decide, by decide, by decide, by decide, by decide, by decide⟩
  · obtain ⟨op, os, pd, hi⟩ := requestOf_of_assemble h
    have hwf := wf_of_requestOf hi
    have hword : assembleWord line = some (encodeCode i) := by simp only [assembleWord, h]
    exact ⟨hwf, hword, decodeCode_encodeCode i hwf⟩
  · intro b pd f g h digit byte delay flag q hq
    simp only [List.mem_cons, List.not_mem_nil, or_false] at hq
    obtain rfl | rfl := hq
    · exact assemble_lineForms b f g h isDelay_none
    · exact assemble_lineForms b f g h (isDelay_hex pd)

end Sys2Proof.Proofs
end

section
/-! PROOF. What a micro-op does to the registers of the block, once for all its ticks (40_transport.md R81, R83). -/

namespace Sys2Proof.Machine

open Sys2Proof

/-- The registers after a micro-op; SAMPLE takes the levels `levels` of the data lines (40_transport.md R81). -/
def Block.afterOp (b : Block) (levels : Byte) : MicroOp → Block
  | .dirOut => { b with dir := .output }
  | .dirIn => { b with dir := .input }
  | .drive d => { b with dbO := d }
  | .setRs v => { b with rsO := v }
  | .setRw v => { b with rwO := v }
  | .setE v => { b with eO := v }
  | .sample => { b with rdata := levels }
  | .wait n => { b with timer := n - 1 }

/-- A micro-op that does not stop the machine writes its own register of the block and no other, whatever the edges of E
do to the controller (40_transport.md R81). -/
theorem runMicroOp_block {m : MicroOp} {u t : State} (h : (runMicroOp m u).outcome = .next t) :
    t.block = u.block.afterOp u.dbI m := by
  cases m with
  | setE v =>
    obtain ⟨c, n, rfl⟩ := setE_frame h
    rfl
  | dirOut | dirIn | drive _ | setRs _ | setRw _ | sample | wait _ =>
    cases h
    rfl

/-- A micro-op leaves MQ (40_transport.md R81). -/
theorem runMicroOp_mq {m : MicroOp} {u t : State} (h : (runMicroOp m u).outcome = .next t) : t.mq = u.mq := by
  obtain ⟨_, _, _, _, _, _, _, _, _, rfl⟩ := runMicroOp_frame h
  rfl

/-- Only a rising edge of E on an attached controller can stop the machine (20_memory.md R49). -/
theorem runMicroOp_answers {m : MicroOp} (u : State) (h : m = .setE true → u.env.attached = false) :
    ∃ t, (runMicroOp m u).outcome = .next t := by
  cases m with
  | setE v =>
    rw [runMicroOp]
    by_cases he : u.eO = v
    · exact ⟨_, he ▸ congrArg _ (setE_level _)⟩
    · cases v with
      | true =>
        rw [setE_true_of_low (by simpa using he)]
        obtain ⟨hattached, -⟩ | ⟨-, hdone⟩ := riseE_cases u
        · cases (h rfl).symm.trans hattached
        · exact ⟨_, congrArg _ hdone⟩
      | false =>
        obtain ⟨_, _, hfall, -⟩ := fallE_spec u
        rw [setE_false_of_high (by simpa using he)]
        exact ⟨_, hfall⟩
  | dirOut | dirIn | drive _ | setRs _ | setRw _ | sample | wait _ => exact ⟨_, rfl⟩

/-- A run of one step more is its first step and the run from there. -/
theorem run_succ (M : Host.Core) {s t : M.State} (h : M.step s = .next t) (n : Nat) : M.run (n + 1) s = M.run n t := by
  rw [Host.Core.run, h]

theorem runs_succ {s t : State} (h : step s = .next t) (n : Nat) : runs (n + 1) s = runs n t := run_succ core h n

end Sys2Proof.Machine

namespace Sys2Proof.Proofs

open Sys2Proof Sys2Proof.Machine

/-- Settles O22, by what the sequencer's tick is: a tick of a wait, the completion, or a micro-op on the registers that
the start of the tick leaves. -/
theorem sequencerTick : Obligations.SequencerTick := by
  intro s hr hrst hq
  refine ⟨fun ht => ⟨_, step_wait s hr hrst hq ht, rfl⟩, fun ht hm => ⟨_, step_complete s hr hrst hq ht hm, rfl⟩,
    fun m rest t ht hm hstep => ?_, fun m rest ht hm hdetached => ?_⟩
  · rw [step_microOp s hr hrst hq ht m rest hm] at hstep
    rw [runMicroOp_block hstep]
    cases m <;> rfl
  · rw [step_microOp s hr hrst hq ht m rest hm]
    exact runMicroOp_answers _ hdetached

end Sys2Proof.Proofs
end

section
/-! PROOF. A request from its start to its completion, and the bytes of a loopback on the way (40_transport.md R94,
42_session_init.md R118, R120). -/

namespace Sys2Proof.Machine

open Sys2Proof

/-! ## The start -/

/-- A request whose micro-program may start does so in a state with the invariant (42_session_init.md R117, R118). -/
theorem Inv.start {s : State} (hi : Inv s) (hq : s.seq = .idle) {op : BitVec 4} {ms : List MicroOp}
    (hop : op.toNat < 0xD) (hready : op = 0x0 ∨ s.session = .ready) (hms : StartsSafely s.cfg op ms) :
    Inv (s.start op ms) := by
  obtain ⟨-, ht, he, hsettled⟩ := hi.idle hq
  refine
    { cfgWf := hi.cfgWf
      rspLegal := hi.rspLegal
      opLegal := hop
      mqBound := hms.length
      memWf := by simpa using hi.memWf
      needBound := by simpa using hi.needBound
      strobe := hi.strobe
      idle := fun hidle => nomatch hidle
      running := fun _ => hms.safe _ he (by simpa [State.lineView] using hi.needBound) fun h0 => ?_
      session := fun _ => ?_ }
  · simpa [State.lineView, ht] using hsettled (hready.resolve_left h0)
  · obtain rfl | hready := hready
    · simp
    · by_cases h0 : op = 0x0 <;> simp [h0, hready]

/-! ## The bytes of a loopback -/

/-- DB_O and RDATA after a micro-op, with a loopback on the data lines (40_transport.md R81, R94). -/
def MicroOp.loopback (p : Byte × Byte) : MicroOp → Byte × Byte
  | .drive b => (b, p.2)
  | .sample => (p.1, p.1)
  | _ => p

/-- DB_O and RDATA after a micro-program. -/
def loopbackOps (ms : List MicroOp) (p : Byte × Byte) : Byte × Byte := ms.foldl MicroOp.loopback p

/-- A loopback carries DB_O in either direction of the lines (10_state.md R28, 40_transport.md R94). -/
theorem State.dbI_loopback {u : State} (h : u.env = .loopback) : u.dbI = u.dbO := by
  cases hdir : u.dir with
  | output => exact u.dbI_of_output hdir
  | input => exact u.dbI_of_loopback hdir h

/-- What a micro-op leaves in DB_O and RDATA under a loopback. -/
theorem runMicroOp_loopback {m : MicroOp} {u t : State} (henv : u.env = .loopback)
    (h : (runMicroOp m u).outcome = .next t) : (t.dbO, t.rdata) = m.loopback (u.dbO, u.rdata) := by
  have hblock := runMicroOp_block h
  rw [State.dbI_loopback henv] at hblock
  have hbytes : (t.dbO, t.rdata) = (t.block.dbO, t.block.rdata) := rfl
  rw [hbytes, hblock]
  cases m <;> rfl

/-- A tick of a running block leaves the bytes that the micro-program left ends with. -/
theorem RunningTick.loopbackOps {s t : State} (h : RunningTick s t) (henv : s.env = .loopback) :
    loopbackOps t.mq (t.dbO, t.rdata) = loopbackOps s.mq (s.dbO, s.rdata) := by
  cases h with
  | wait _ h =>
    subst h
    rfl
  | microOp m rest _ hm h =>
    have hmq : t.mq = rest := runMicroOp_mq h
    rw [hm, hmq, runMicroOp_loopback (u := s.beginTick.withMq rest) henv h]
    rfl

/-- A wait changes neither byte. -/
theorem loopbackOps_waitOps (c : Config) (d : Nat) (p : Byte × Byte) : loopbackOps (waitOps c d) p = p := by
  unfold waitOps
  split <;> rfl

/-- A micro-program of two parts. -/
theorem loopbackOps_append (xs ys : List MicroOp) (p : Byte × Byte) :
    loopbackOps (xs ++ ys) p = loopbackOps ys (loopbackOps xs p) :=
  List.foldl_append

/-- A write leaves its byte in DB_O (40_transport.md R88). -/
theorem loopbackOps_write (c : Config) (pd : BitVec 16) (rs : Level) (b : Byte) (p : Byte × Byte) :
    loopbackOps (single c pd (.write rs b)) p = (b, p.2) := by
  simp only [single, program, Transaction.ops, busWriteOps, loopbackOps_append, loopbackOps_waitOps]
  rfl

/-- A read takes DB_O into RDATA (40_transport.md R89). -/
theorem loopbackOps_read (c : Config) (pd : BitVec 16) (p : Byte × Byte) :
    loopbackOps (single c pd .read) p = (p.1, p.1) := by
  simp only [single, program, Transaction.ops, busReadOps, loopbackOps_append, loopbackOps_waitOps]
  rfl

/-! ## The completion -/

/-- The state `v` in which the request of `s` has completed (42_session_init.md R120). -/
structure Completed (s v : State) : Prop where
  inv : Inv v
  noReset : v.noReset
  seq : v.seq = .idle
  env : v.env = s.env
  session : v.session = if s.curOp = 0x0 then .ready else s.session
  response : v.response = some (rspOk, if s.curOp = 0x3 then v.rdata else 0)
  loopback : s.env = .loopback → (v.dbO, v.rdata) = loopbackOps s.mq (s.dbO, s.rdata)

/-- What a request is completed to in a later tick, it is completed to from here. -/
theorem RunningTick.completed {s t v : State} (h : RunningTick s t) (hstep : step s = .next t) (hv : Completed t v) :
    Completed s v := by
  obtain ⟨-, -, hop, hsession, -⟩ := h.frame
  obtain ⟨-, henv⟩ := Proofs.configNeverChanges s t hstep
  exact {
    inv := hv.inv
    noReset := hv.noReset
    seq := hv.seq
    env := hv.env.trans henv
    session := by rw [hv.session, hop, hsession]
    response := by rw [hv.response, hop]
    loopback := fun hloop => (hv.loopback (henv.trans hloop)).trans (h.loopbackOps hloop) }

/-- A running request completes after the ticks it has left, unless a reset comes (42_session_init.md R120). -/
theorem Inv.completes {s : State} (hi : Inv s) (hn : s.noReset) (hq : s.seq = .run) :
    ∃ v, runs s.ticksLeft s = .next v ∧ Completed s v := by
  refine running_induction (P := fun s => ∃ v, runs s.ticksLeft s = .next v ∧ Completed s v) ?_ ?_ s hi hn hq
  · intro s hi hn hq ht hm hstep
    have hone : s.ticksLeft = 0 + 1 := by simp [State.ticksLeft, ht, hm, ticksOfOps]
    refine ⟨s.beginTick.complete, by rw [hone, runs_succ hstep]; rfl, ?_⟩
    exact ⟨hi.completionTick hq ht hm, hn.tail rfl, rfl, rfl, rfl, rfl, fun _ => by rw [hm]; rfl⟩
  · rintro s t hi hn hq hstep h ⟨v, hrun, hv⟩
    rw [h.ticksLeft hi hq, runs_succ hstep]
    exact ⟨v, hrun, h.completed hstep hv⟩

/-- A request that an idle block in READY starts runs to its completion (42_session_init.md R117, R118). -/
theorem Inv.accept_completes {s : State} (hi : Inv s) (hn : s.noReset) (hq : s.seq = .idle) {op : BitVec 4}
    {ms : List MicroOp} (hop : op.toNat < 0xD) (hs : s.session = .ready) (hms : StartsSafely s.cfg op ms) :
    ∃ v, runs (s.accept op ms).ticksLeft (s.accept op ms) = .next v ∧ Completed (s.start op ms) v ∧
      v.session = .ready := by
  rw [State.accept_ready s op ms hop hs]
  obtain ⟨v, hrun, hv⟩ := (hi.start hq hop (.inr hs) hms).completes hn rfl
  exact ⟨v, hrun, hv, by rw [hv.session]; simp [hs]⟩

end Sys2Proof.Machine

namespace Sys2Proof.Proofs

open Sys2Proof Sys2Proof.Machine

/-- Settles O49: the write completes with its byte in DB_O, and the read samples DB_O. -/
theorem loopbackRoundTrip : Obligations.LoopbackRoundTrip := by
  intro s b pd pd' hi hn hq hs henv
  have roundTrip : ∀ (op : BitVec 4) (rs : Level) (t : State), op.toNat < 0xD → op ≠ 0x0 →
      t = s.accept op (single s.cfg pd (.write rs b)) → ∃ u v w, runs t.ticksLeft t = .next u ∧
        exec (.readByte pd') u = .next v ∧ runs v.ticksLeft v = .next w ∧ w.response = some (0, b) := by
    rintro op rs t hop hne rfl
    obtain ⟨u, hwrite, hu, huready⟩ :=
      hi.accept_completes hn hq hop hs (startsSafely_single s.cfg hi.cfgWf op hne pd (.write rs b))
    obtain ⟨w, hread, hw, -⟩ := hu.inv.accept_completes hu.noReset hu.seq (by decide) huready
      (startsSafely_single u.cfg hu.inv.cfgWf 0x3 (by decide) pd' .read)
    have hdriven := hu.loopback henv
    have hsampled := hw.loopback (hu.env.trans henv)
    rw [State.start_mq, loopbackOps_write] at hdriven
    rw [State.start_mq, loopbackOps_read] at hsampled
    have hbyte : w.rdata = b := (congrArg Prod.snd hsampled).trans (congrArg Prod.fst hdriven)
    exact ⟨u, _, w, hwrite, rfl, hread, by rw [hw.response, hbyte]; rfl⟩
  intro i hmem
  simp only [List.mem_cons, List.not_mem_nil, or_false] at hmem
  obtain rfl | rfl := hmem
  · obtain ⟨u, v, w, hrest⟩ := roundTrip 0x1 false _ (by decide) (by decide) rfl
    exact ⟨_, u, v, w, rfl, hrest⟩
  · obtain ⟨u, v, w, hrest⟩ := roundTrip 0x2 true _ (by decide) (by decide) rfl
    exact ⟨_, u, v, w, rfl, hrest⟩

end Sys2Proof.Proofs
end

section
/-! PROOF. The conversion of a delay to ticks (40_transport.md R84). -/

namespace Sys2Proof.Machine

open Sys2Proof

/-- No time takes no tick (40_transport.md R84). -/
theorem ticksOf_zero (c : Config) (h : 0 < c.tTick) : ticksOf c 0 = 0 :=
  Nat.div_eq_of_lt (by omega)

/-- W(d) ticks last less than d and one tick more (40_transport.md R84). -/
theorem ticksOf_mul_lt (c : Config) (h : 0 < c.tTick) (d : Nat) : ticksOf c d * c.tTick < d + c.tTick := by
  have hdiv : ticksOf c d * c.tTick ≤ d + c.tTick - 1 := Nat.div_mul_le_self _ _
  omega

end Sys2Proof.Machine

namespace Sys2Proof.Proofs

open Sys2Proof Sys2Proof.Machine

/-- Settles O10: the quotient rounds up, by less than a tick. -/
theorem waitMeetsMinimum : Obligations.WaitMeetsMinimum := by
  intro c d h
  refine ⟨rfl, ticksOf_zero c h, le_ticksOf_mul c h d, fun hd => ?_⟩
  have hlt := ticksOf_mul_lt c h d
  rw [Nat.sub_mul]
  omega

end Sys2Proof.Proofs
end

section
/-! PROOF. The lines of a running block (40_transport.md R90, R91, R92). -/

namespace Sys2Proof.Machine

open Sys2Proof

/-! ## While E is high -/

/-- A micro-op that meets the timing of the bus, with E high before or after it, changes neither RS, RW, the direction nor
the driven byte (40_transport.md R92). -/
theorem SafeOps.stable {m : MicroOp} {u t : State} {c : Config} {rest : List MicroOp} {v : LineView}
    (hsafe : SafeOps c (m :: rest) v) (hv : v.e = u.eO) (h : (runMicroOp m u).outcome = .next t)
    (he : u.eO = true ∨ t.eO = true) : t.rsO = u.rsO ∧ t.rwO = u.rwO ∧ t.dir = u.dir ∧ t.dbO = u.dbO := by
  cases m with
  | dirOut | dirIn | drive _ | setRs _ | setRw _ =>
    obtain ⟨hlow, -⟩ := hsafe
    cases h
    simp [hv ▸ hlow] at he
  | setE v =>
    obtain ⟨c, n, rfl⟩ := setE_frame h
    exact ⟨rfl, rfl, rfl, rfl⟩
  | sample | wait _ =>
    cases h
    exact ⟨rfl, rfl, rfl, rfl⟩

/-- The acceptance check moves no line. -/
theorem State.accept_lines (s : State) (op : BitVec 4) (ms : List MicroOp) : (s.accept op ms).lines = s.lines := by
  obtain ⟨-, h⟩ | ⟨-, -, -, h⟩ | ⟨-, -, h⟩ := s.accept_cases op ms <;> rw [h] <;> rfl

/-! ## Tick by tick -/

/-- The levels of RS, RW, E, the direction and the driven byte. -/
abbrev Levels := Level × Level × Level × Dir × Byte

/-- The levels after a micro-op (40_transport.md R81). -/
def MicroOp.levels : Levels → MicroOp → Levels
  | (rs, rw, e, _, db), .dirOut => (rs, rw, e, .output, db)
  | (rs, rw, e, _, db), .dirIn => (rs, rw, e, .input, db)
  | (rs, rw, e, dir, _), .drive b => (rs, rw, e, dir, b)
  | (_, rw, e, dir, db), .setRs v => (v, rw, e, dir, db)
  | (rs, _, e, dir, db), .setRw v => (rs, v, e, dir, db)
  | (rs, rw, _, dir, db), .setE v => (rs, rw, v, dir, db)
  | l, .sample => l
  | l, .wait _ => l

/-- The levels after a micro-program. -/
def levelsAfter (ms : List MicroOp) (l : Levels) : Levels := ms.foldl MicroOp.levels l

/-- The levels in the ticks of a micro-program (40_transport.md R82, R83). -/
def levelsDuring : List MicroOp → Levels → List Levels
  | [], _ => []
  | m :: ms, l => List.replicate (ticksOfOps [m]) l ++ levelsDuring ms (m.levels l)

/-- What a micro-op leaves on the lines. -/
theorem runMicroOp_lines {m : MicroOp} {u t : State} (h : (runMicroOp m u).outcome = .next t) :
    t.lines = m.levels u.lines := by
  have hlines : t.lines = (t.block.rsO, t.block.rwO, t.block.eO, t.block.dir, t.block.dbO) := rfl
  rw [hlines, runMicroOp_block h]
  cases m <;> rfl

/-- No micro-op both loads TIMER and moves a line (40_transport.md R81). -/
theorem runMicroOp_timer_or_lines {m : MicroOp} {u t : State} (h : (runMicroOp m u).outcome = .next t) :
    t.timer = u.timer ∨ t.lines = u.lines := by
  cases m with
  | wait n =>
    cases h
    exact .inr rfl
  | setE v =>
    obtain ⟨c, n, rfl⟩ := setE_frame h
    exact .inl rfl
  | dirOut | dirIn | drive _ | setRs _ | setRw _ | sample =>
    cases h
    exact .inl rfl

/-- A line trace of one tick more. -/
theorem lineTrace_succ {s t : State} (h : step s = .next t) (n : Nat) :
    lineTrace (n + 1) s = s.lines :: lineTrace n t := by
  simp only [lineTrace, statesOf, h, List.map_cons]

/-- From `s` the wait under way and the micro-ops `ms`, with `rest` behind them, put their levels on the lines tick by
tick. -/
def Traces (ms rest : List MicroOp) (s : State) : Prop :=
  lineTrace (s.timer.toNat + ticksOfOps ms) s =
    List.replicate s.timer.toNat s.lines ++ levelsDuring ms s.lines ∧
  ∃ t, runs (s.timer.toNat + ticksOfOps ms) s = .next t ∧ t.lines = levelsAfter ms s.lines ∧ t.mq = rest

/-- Nothing is left to do. -/
theorem Traces.nil {s : State} {rest : List MicroOp} (ht : s.timer = 0) (hm : s.mq = rest) : Traces [] rest s := by
  have hzero : s.timer.toNat + ticksOfOps [] = 0 := by simp [ht, ticksOfOps]
  rw [Traces, hzero]
  exact ⟨by simp [ht, levelsDuring, lineTrace, statesOf], s, rfl, rfl, hm⟩

/-- The tick of a wait. -/
theorem Traces.wait {s t : State} {ms rest : List MicroOp} (hstep : step s = .next t) (ht : s.timer ≠ 0)
    (heq : t = s.beginTick.withTimer (s.timer - 1)) (h : Traces ms rest t) : Traces ms rest s := by
  obtain ⟨htrace, hrun⟩ := h
  have hlines : t.lines = s.lines := by rw [heq]; rfl
  have htimer : s.timer.toNat = t.timer.toNat + 1 := by
    rw [heq, State.withTimer_timer]
    bv_omega
  have hticks : s.timer.toNat + ticksOfOps ms = t.timer.toNat + ticksOfOps ms + 1 := by omega
  rw [Traces, hticks, lineTrace_succ hstep, htrace, runs_succ hstep, ← hlines, htimer]
  exact ⟨rfl, hrun⟩

/-- The tick of a micro-op. -/
theorem Traces.microOp {s t : State} {m : MicroOp} {ms rest : List MicroOp} (hstep : step s = .next t) (ht : s.timer = 0)
    (hticks : ticksOfOps [m] = t.timer.toNat + 1)
    (hop : (runMicroOp m (s.beginTick.withMq (ms ++ rest))).outcome = .next t) (h : Traces ms rest t) :
    Traces (m :: ms) rest s := by
  obtain ⟨htrace, hrun⟩ := h
  have hlines : t.lines = m.levels s.lines := runMicroOp_lines (u := s.beginTick.withMq (ms ++ rest)) hop
  have hwait : List.replicate t.timer.toNat t.lines = List.replicate t.timer.toNat s.lines := by
    obtain htimer | hkept := runMicroOp_timer_or_lines hop
    · simp [htimer, ht]
    · exact congrArg _ hkept
  have hsum : s.timer.toNat + ticksOfOps (m :: ms) = t.timer.toNat + ticksOfOps ms + 1 := by
    have happend := ticksOfOps_append [m] ms
    have hzero : s.timer.toNat = 0 := by simp [ht]
    rw [List.singleton_append] at happend
    omega
  rw [Traces, hsum, lineTrace_succ hstep, htrace, runs_succ hstep, hwait, levelsDuring, hticks, ht, hlines]
  rw [hlines] at hrun
  exact ⟨rfl, hrun⟩

/-- The tick of a micro-op takes its first tick, and loads the others into TIMER (40_transport.md R83). -/
theorem ticksOfOps_microOpTick {s t : State} (ht : s.timer = 0) {m : MicroOp} {rest : List MicroOp}
    (hm : s.mq = m :: rest) (hwait : m ≠ .wait 0) (h : (runMicroOp m (s.beginTick.withMq rest)).outcome = .next t) :
    ticksOfOps [m] = t.timer.toNat + 1 := by
  have hleft := State.ticksLeft_microOpTick ht hm hwait h
  have hmq : t.mq = rest := runMicroOp_mq h
  have happend := ticksOfOps_append [m] rest
  have hzero : s.timer.toNat = 0 := by simp [ht]
  rw [List.singleton_append] at happend
  simp only [State.ticksLeft, hm, hmq] at hleft
  omega

/-- A running block without a reset ahead puts the levels of its micro-program on the lines, up to any point of it. -/
theorem Inv.traces {s : State} (hi : Inv s) (hn : s.noReset) (hq : s.seq = .run) {ms rest : List MicroOp}
    (hm : s.mq = ms ++ rest) : Traces ms rest s := by
  refine running_induction (P := fun s => ∀ ms, s.mq = ms ++ rest → Traces ms rest s) ?_ ?_ s hi hn hq ms hm
  · intro s _ _ _ ht hnil _ ms hm
    obtain ⟨rfl, rfl⟩ := List.append_eq_nil_iff.1 (hm.symm.trans hnil)
    exact .nil ht hm
  · intro s t hi _ hq hstep h ih ms hm
    cases h with
    | wait ht heq => exact .wait hstep ht heq (ih ms (by rw [heq]; exact hm))
    | microOp m rest' ht hhead hop =>
      cases ms with
      | nil => exact .nil ht hm
      | cons m' ms =>
        obtain ⟨rfl, rfl⟩ := List.cons.inj (hhead.symm.trans hm)
        have hsafe := hi.running hq
        rw [hhead] at hsafe
        have hticks := ticksOfOps_microOpTick ht hhead hsafe.head_ne_wait_zero hop
        exact .microOp hstep ht hticks hop (ih ms (runMicroOp_mq hop))

/-! ## The two transactions -/

/-- The levels in the ticks of two parts. -/
theorem levelsDuring_append (xs ys : List MicroOp) (l : Levels) :
    levelsDuring (xs ++ ys) l = levelsDuring xs l ++ levelsDuring ys (levelsAfter xs l) := by
  induction xs generalizing l with
  | nil => rfl
  | cons x xs ih =>
    rw [List.cons_append, levelsDuring, levelsDuring, ih, List.append_assoc]
    rfl

theorem levelsAfter_append (xs ys : List MicroOp) (l : Levels) :
    levelsAfter (xs ++ ys) l = levelsAfter ys (levelsAfter xs l) :=
  List.foldl_append

/-- A wait that fits TIMER holds the levels for its ticks (40_transport.md R85). -/
theorem levelsDuring_waitOps (c : Config) (d : Nat) (h : Config.fits c d) (l : Levels) :
    levelsDuring (waitOps c d) l = List.replicate (ticksOf c d) l := by
  have hticks := ticksOfOps_waitOps c d h
  unfold waitOps at hticks ⊢
  split at hticks
  case isTrue hzero => simp [levelsDuring, hzero]
  case isFalse hpos => rw [if_neg hpos, levelsDuring, hticks, levelsDuring, List.append_nil]

theorem levelsAfter_waitOps (c : Config) (d : Nat) (l : Levels) : levelsAfter (waitOps c d) l = l := by
  unfold waitOps
  split <;> rfl

section
variable (c : Config) (h : Config.fits c c.tEH)
include h

/-- A write takes 6 + W(T_EH) ticks (40_transport.md R95). -/
theorem ticksOfOps_busWriteOps (rs : Level) (b : Byte) : ticksOfOps (busWriteOps c rs b) = 6 + ticksOf c c.tEH := by
  simp only [busWriteOps, ticksOfOps_append, ticksOfOps_waitOps c _ h, ticksOfOps]
  omega

/-- A read takes 6 + W(T_EH) ticks (40_transport.md R95). -/
theorem ticksOfOps_busReadOps : ticksOfOps (busReadOps c) = 6 + ticksOf c c.tEH := by
  simp only [busReadOps, ticksOfOps_append, ticksOfOps_waitOps c _ h, ticksOfOps]
  omega

/-- The table of a write (40_transport.md R90). -/
theorem levelsDuring_busWriteOps (rs : Level) (b : Byte) (rs' rw' : Level) (dir' : Dir) (db' : Byte) :
    levelsDuring (busWriteOps c rs b) (rs', rw', false, dir', db') =
      [(rs', rw', false, dir', db'), (rs', rw', false, .output, db'), (rs', rw', false, .output, b),
        (rs, rw', false, .output, b), (rs, false, false, .output, b)] ++
      List.replicate (ticksOf c c.tEH + 1) (rs, false, true, .output, b) := by
  rw [busWriteOps, levelsDuring_append, levelsDuring_append, levelsDuring_waitOps c _ h, levelsAfter_append,
    levelsAfter_waitOps, List.replicate_succ', List.append_assoc]
  rfl

/-- The table of a read (40_transport.md R91). -/
theorem levelsDuring_busReadOps (rs' rw' : Level) (dir' : Dir) (db' : Byte) :
    levelsDuring (busReadOps c) (rs', rw', false, dir', db') =
      [(rs', rw', false, dir', db'), (rs', rw', false, .input, db'), (true, rw', false, .input, db'),
        (true, true, false, .input, db')] ++
      List.replicate (ticksOf c c.tEH + 2) (true, true, true, .input, db') := by
  rw [busReadOps, levelsDuring_append, levelsDuring_append, levelsDuring_waitOps c _ h, levelsAfter_append,
    levelsAfter_waitOps, List.replicate_succ', List.replicate_succ', List.append_assoc, List.append_assoc]
  rfl

end

/-- The lines a write leaves (40_transport.md R88). -/
theorem levelsAfter_busWriteOps (c : Config) (rs : Level) (b : Byte) (l : Levels) :
    levelsAfter (busWriteOps c rs b) l = (rs, false, false, .output, b) := by
  rw [busWriteOps, levelsAfter_append, levelsAfter_append, levelsAfter_waitOps]
  rfl

/-- The lines a read leaves (40_transport.md R89). -/
theorem levelsAfter_busReadOps (c : Config) (rs' rw' e' : Level) (dir' : Dir) (db' : Byte) :
    levelsAfter (busReadOps c) (rs', rw', e', dir', db') = (true, true, false, .input, db') := by
  rw [busReadOps, levelsAfter_append, levelsAfter_append, levelsAfter_waitOps]
  rfl

/-- With E low and no wait under way, the lines of the ticks of a transaction are those of its table. -/
theorem Traces.transaction {s : State} {ms rest : List MicroOp} (h : Traces ms rest s) (ht : s.timer = 0)
    (he : s.eO = false) {n : Nat} (hn : ticksOfOps ms = n) :
    lineTrace n s = levelsDuring ms (s.rsO, s.rwO, false, s.dir, s.dbO) ∧
    ∃ t, runs n s = .next t ∧ t.lines = levelsAfter ms (s.rsO, s.rwO, false, s.dir, s.dbO) ∧ t.mq = rest := by
  have hlines : s.lines = (s.rsO, s.rwO, false, s.dir, s.dbO) := he ▸ rfl
  have hzero : s.timer.toNat = 0 := by simp [ht]
  rw [Traces, hzero, Nat.zero_add, hn, hlines] at h
  exact h

end Sys2Proof.Machine

namespace Sys2Proof.Proofs

open Sys2Proof Sys2Proof.Machine

/-- Settles O37, by what the tick is: only a micro-op moves a line, and in a safe micro-program only at a low E. -/
theorem linesStableWhileStrobed : Obligations.LinesStableWhileStrobed := by
  intro s t hi h hrst he
  obtain ⟨-, ⟨hrst', -⟩ | ⟨-, -, -, rfl⟩ | ⟨-, -, -, -, rfl⟩ | ⟨m, rest, -, hq, ht, hm, hop⟩ | ⟨-, -, -, rfl⟩ |
    ⟨r, -, -, -, hreq⟩⟩ := step_cases h
  · cases hrst.symm.trans hrst'
  · exact ⟨rfl, rfl, rfl, rfl⟩
  · exact ⟨rfl, rfl, rfl, rfl⟩
  · have hsafe := hi.running hq
    rw [hm] at hsafe
    exact hsafe.stable (u := s.beginTick.withMq rest) rfl hop he
  · exact ⟨rfl, rfl, rfl, rfl⟩
  · obtain ⟨ms, hexec⟩ := exec_decodeRequest r.req r.lb s.beginTick.takeRequest
    cases hexec.symm.trans hreq
    have hlines := State.accept_lines s.beginTick.takeRequest (reqOp r.req) ms
    simp only [State.lines, Prod.mk.injEq] at hlines
    obtain ⟨hrs, hrw, -, hdir, hdb⟩ := hlines
    exact ⟨hrs, hrw, hdir, hdb⟩

/-- Settles O43: the trace of the micro-program is the table of the transaction. -/
theorem transactionTraces : Obligations.TransactionTraces := by
  refine ⟨fun s rs b rest hi hn hq ht hm => ?_, fun s rest hi hn hq ht hm => ?_⟩
  all_goals
    obtain ⟨-, -, ⟨hfits, -⟩, -⟩ := hi.cfgWf
    have hsafe := hi.running hq
    rw [hm] at hsafe
    have hlow : s.eO = false := hsafe.1
  · rw [← levelsDuring_busWriteOps s.cfg hfits]
    simpa only [levelsAfter_busWriteOps] using
      (hi.traces hn hq hm).transaction ht hlow (ticksOfOps_busWriteOps s.cfg hfits rs b)
  · rw [← levelsDuring_busReadOps s.cfg hfits]
    simpa only [levelsAfter_busReadOps] using
      (hi.traces hn hq hm).transaction ht hlow (ticksOfOps_busReadOps s.cfg hfits)

end Sys2Proof.Proofs
end

section
/-! PROOF. What the byte of an encoder function tells: its class, the fields it was made from, and the settling floor
(41_encoder.md R110, R112, 30_encoding.md R75). -/

namespace Sys2Proof.Machine

open Sys2Proof

/-! ## The class of an encoder function's byte -/

theorem byteClass_encEntry (incDec shift : Bool) : byteClass (encEntry incDec shift) = .entryModeSet := by
  revert incDec shift
  decide

theorem byteClass_encDisplay (display cursor blink : Bool) :
    byteClass (encDisplay display cursor blink) = .displayControl := by
  revert display cursor blink
  decide

theorem byteClass_encShift (shiftCursor dir : Bool) : byteClass (encShift shiftCursor dir) = .cursorDisplayShift := by
  revert shiftCursor dir
  decide

theorem byteClass_encFuncset (dl n f : Bool) : byteClass (encFuncset dl n f) = .functionSet := by
  revert dl n f
  decide

/-- The mask keeps an address out of bits 7 and 6, whatever it is (41_encoder.md R107). -/
theorem byteClass_encCgram (a : Byte) : byteClass (encCgram a) = .setCgramAddress := by
  simp [byteClass, encCgram]

/-- Bit 7 is set, whatever the address is (41_encoder.md R108). -/
theorem byteClass_encDdram (a : Byte) : byteClass (encDdram a) = .setDdramAddress := by
  simp [byteClass, encDdram]

/-! ## The fields an encoder function's byte was made from -/

theorem encodeCode_entryModeSetI (incDec shift : Bool) :
    encodeCode (.entryModeSetI incDec shift) = .bus (busWord false false (encEntry incDec shift)) := by
  rw [encEntry, flagAt_zero]
  rfl

theorem encodeCode_displayControlI (display cursor blink : Bool) :
    encodeCode (.displayControlI display cursor blink) =
      .bus (busWord false false (encDisplay display cursor blink)) := by
  rw [encDisplay, flagAt_zero]
  rfl

theorem encodeCode_cursorDisplayShiftI (shiftCursor dir : Bool) :
    encodeCode (.cursorDisplayShiftI shiftCursor dir) = .bus (busWord false false (encShift shiftCursor dir)) := rfl

theorem encodeCode_functionSetI (dl n f : Bool) :
    encodeCode (.functionSetI dl n f) = .bus (busWord false false (encFuncset dl n f)) := rfl

/-- One byte is of one instruction: the decoder gives it back (30_encoding.md R70, R75). -/
theorem instr_eq_of_byte_eq {i i' : Instr} {b b' : Byte} (hi : encodeCode i = .bus (busWord false false b))
    (hi' : encodeCode i' = .bus (busWord false false b')) (h : b = b') : i = i' := by
  subst h
  exact Except.ok.inj ((decodeBus_of_encodeCode hi).symm.trans (decodeBus_of_encodeCode hi'))

/-- The low 6 bits of the byte are those of the address (41_encoder.md R107). -/
theorem encCgram_and_mask (a : Byte) : encCgram a &&& 0x3F = a &&& 0x3F := by
  rw [encCgram, BitVec.and_or_distrib_right, BitVec.and_assoc]
  simp

/-- The low 7 bits of the byte are those of the address (41_encoder.md R108). -/
theorem encDdram_and_mask (a : Byte) : encDdram a &&& 0x7F = a &&& 0x7F := by
  rw [encDdram, BitVec.and_or_distrib_right, BitVec.and_assoc]
  simp

/-! ## The settling floor -/

/-- A byte is below 0x04 exactly if none of bits 7 to 2 is set. -/
theorem toNat_lt_four_iff (b : Byte) : b.toNat < 0x04 ↔ ∀ k, 2 ≤ k → b.getLsbD k = false :=
  ⟨fun hlt _ hk => Nat.testBit_lt_two_pow (hlt.trans_le (Nat.pow_le_pow_right (n := 2) (by decide) hk)),
    Nat.lt_pow_two_of_testBit (n := 2) b.toNat⟩

/-- The three lowest classes are those of the bytes with no bit set but bits 1 and 0 (30_encoding.md R75). -/
theorem byteClass_low_iff (b : Byte) :
    (byteClass b = .none ∨ byteClass b = .clearDisplay ∨ byteClass b = .returnHome) ↔ b.toNat < 0x04 := by
  rw [toNat_lt_four_iff]
  constructor
  · intro hlow k hk
    unfold byteClass at hlow
    split_ifs at hlow with h7 h6 h5 h4 h3 h2
    iterate 6 exact absurd hlow (by decide) -- the six higher classes
    all_goals
      by_cases hk8 : 8 ≤ k
      · exact BitVec.getLsbD_of_ge b k hk8
      · interval_cases k <;> exact Bool.eq_false_iff.2 ‹_›
  · intro hclear
    simp only [byteClass, hclear, Nat.reduceLeDiff, Bool.false_eq_true, if_false]
    split_ifs <;> simp

end Sys2Proof.Machine

namespace Sys2Proof.Proofs

open Sys2Proof Sys2Proof.Machine

/-- Settles O7: the class is the function's, the decoder gives the flags back, and the mask the address. -/
theorem encoderImagesDisjoint : Obligations.EncoderImagesDisjoint := by
  refine ⟨rfl, rfl, byteClass_encEntry, byteClass_encDisplay, byteClass_encShift, byteClass_encFuncset,
    byteClass_encCgram, byteClass_encDdram, fun _ _ _ _ h => ?_, fun _ _ _ _ _ _ h => ?_, fun _ _ _ _ h => ?_,
    fun _ _ _ _ _ _ h => ?_, fun a a' h => ?_, fun a a' h => ?_⟩
  · exact Instr.entryModeSetI.inj
      (instr_eq_of_byte_eq (encodeCode_entryModeSetI _ _) (encodeCode_entryModeSetI _ _) h)
  · exact Instr.displayControlI.inj
      (instr_eq_of_byte_eq (encodeCode_displayControlI _ _ _) (encodeCode_displayControlI _ _ _) h)
  · exact Instr.cursorDisplayShiftI.inj
      (instr_eq_of_byte_eq (encodeCode_cursorDisplayShiftI _ _) (encodeCode_cursorDisplayShiftI _ _) h)
  · exact Instr.functionSetI.inj
      (instr_eq_of_byte_eq (encodeCode_functionSetI _ _ _) (encodeCode_functionSetI _ _ _) h)
  · rw [← encCgram_and_mask a, h, encCgram_and_mask]
  · rw [← encDdram_and_mask a, h, encDdram_and_mask]

/-- Settles O9: an instruction write has the floor of the three lowest classes exactly below 0x04. -/
theorem floorByClass : Obligations.FloorByClass := by
  intro c b
  refine ⟨?_, rfl, rfl⟩
  simp only [settlingFloor, byteClass_low_iff, true_and]

end Sys2Proof.Proofs
end

section
/-! PROOF. A request from its first tick to its completion: what it leaves in every register of the block, for the
requests that sample nothing (42_session_init.md R118, R120, R125). -/

namespace Sys2Proof.Machine

open Sys2Proof

/-! ## Up to the completion -/

/-- A running request answers nothing before its completion tick (42_session_init.md R120). -/
theorem Inv.answers_nothing_before {s : State} (hi : Inv s) (hn : s.noReset) (hq : s.seq = .run) :
    ∀ k, 0 < k → k < s.ticksLeft → ∃ u, runs k s = .next u ∧ u.seq = .run ∧ u.rspValid = false := by
  refine running_induction
    (P := fun s => ∀ k, 0 < k → k < s.ticksLeft → ∃ u, runs k s = .next u ∧ u.seq = .run ∧ u.rspValid = false)
    ?_ ?_ s hi hn hq
  · intro s _ _ _ ht hm _ k hpos hlt
    simp [State.ticksLeft, ht, hm, ticksOfOps] at hlt
    omega
  · intro s t hi _ hq hstep h ih k hpos hlt
    obtain ⟨hseq, -, -, -, hvalid⟩ := h.frame
    have hticks := h.ticksLeft hi hq
    obtain ⟨k, rfl⟩ := Nat.exists_eq_succ_of_ne_zero hpos.ne'
    rw [runs_succ hstep]
    cases k with
    | zero => exact ⟨t, rfl, hseq.trans hq, hvalid⟩
    | succ k => exact ih (k + 1) k.succ_pos (by omega)

/-- A relation to the state in which a request has completed holds of a running block if it holds at the completion tick
and is carried back over every other tick. -/
theorem completion_induction {R : State → State → Prop}
    (complete : ∀ s, s.timer = 0 → s.mq = [] → R s s.beginTick.complete)
    (tick : ∀ s t v, Inv s → step s = .next t → RunningTick s t → s.seq = .run → R t v → R s v)
    {s v : State} (hi : Inv s) (hn : s.noReset) (hq : s.seq = .run) (hrun : runs s.ticksLeft s = .next v) : R s v := by
  refine running_induction (P := fun s => ∀ v, runs s.ticksLeft s = .next v → R s v) ?_ ?_ s hi hn hq v hrun
  · intro s _ _ _ ht hm hstep v hrun
    have hone : s.ticksLeft = 0 + 1 := by simp [State.ticksLeft, ht, hm, ticksOfOps]
    rw [hone, runs_succ hstep] at hrun
    cases hrun
    exact complete s ht hm
  · intro s t hi _ hq hstep h ih v hrun
    rw [h.ticksLeft hi hq, runs_succ hstep] at hrun
    exact tick s t v hi hstep h hq (ih v hrun)

/-- CUR_OP, the lines and RDATA at the completion: the lines are those the micro-program ends with, and RDATA is kept if
nothing is sampled (40_transport.md R81). -/
structure EndsWith (s v : State) : Prop where
  curOp : v.curOp = s.curOp
  lines : v.lines = levelsAfter s.mq s.lines
  rdata : .sample ∉ s.mq → v.rdata = s.rdata

/-- Only SAMPLE writes RDATA (40_transport.md R81). -/
theorem runMicroOp_rdata {m : MicroOp} {u t : State} (h : (runMicroOp m u).outcome = .next t) (hm : m ≠ .sample) :
    t.rdata = u.rdata := by
  have hrdata : t.rdata = t.block.rdata := rfl
  rw [hrdata, runMicroOp_block h]
  cases m
  case sample => exact absurd rfl hm
  all_goals rfl

/-- What a request ends with in a later tick, it ends with from here. -/
theorem RunningTick.endsWith {s t v : State} (h : RunningTick s t) (hv : EndsWith t v) : EndsWith s v := by
  obtain ⟨-, -, hop, -⟩ := h.frame
  obtain ⟨hcurOp, hlines, hrdata⟩ := hv
  cases h with
  | wait _ h =>
    subst h
    exact ⟨hcurOp, hlines, hrdata⟩
  | microOp m rest _ hm h =>
    have hmq : t.mq = rest := runMicroOp_mq h
    have hlevels : t.lines = m.levels s.lines := runMicroOp_lines (u := s.beginTick.withMq rest) h
    refine ⟨hcurOp.trans hop, ?_, fun hnone => ?_⟩
    · rw [hlines, hmq, hm, hlevels]
      rfl
    · rw [hm, List.mem_cons, not_or] at hnone
      obtain ⟨hhead, htail⟩ := hnone
      exact (hrdata (hmq ▸ htail)).trans (runMicroOp_rdata (u := s.beginTick.withMq rest) h (Ne.symm hhead))

/-- The state in which a running request has completed. -/
theorem Inv.endsWith {s v : State} (hi : Inv s) (hn : s.noReset) (hq : s.seq = .run)
    (hrun : runs s.ticksLeft s = .next v) : EndsWith s v := by
  refine completion_induction (R := EndsWith) (fun s _ hm => ⟨rfl, ?_, fun _ => rfl⟩)
    (fun _ _ _ _ _ h _ hv => h.endsWith hv) hi hn hq hrun
  rw [hm]
  rfl

/-- The response registers of a response that can be taken (10_state.md R30). -/
theorem State.response_eq_some {v : State} {e : BitVec 2} {b : Byte} (h : v.response = some (e, b)) :
    v.rspValid = true ∧ v.rspErr = e ∧ v.rspData = b := by
  unfold State.response at h
  split at h
  case isTrue hvalid =>
    cases h
    exact ⟨hvalid, rfl, rfl⟩
  case isFalse => cases h

/-! ## INIT -/

/-- INIT starts in either session state (42_session_init.md R117). -/
theorem State.accept_init (s : State) (ms : List MicroOp) : s.accept 0x0 ms = s.start 0x0 ms := by
  rw [State.accept, if_neg (by decide), if_neg (by simp)]

/-- INIT is accepted in every state (42_session_init.md R123). -/
theorem exec_init (pd : BitVec 16) (s : State) :
    exec (.init pd) s = .next (s.start 0x0 (initProgram s.cfg pd)) :=
  congrArg Host.Outcome.next (s.accept_init _)

/-- An idle block that starts INIT keeps the invariant (42_session_init.md R118). -/
theorem Inv.startInit {s : State} (hi : Inv s) (hq : s.seq = .idle) (pd : BitVec 16) :
    Inv (s.start 0x0 (initProgram s.cfg pd)) :=
  hi.start hq (by decide) (.inl rfl) (startsSafely_init s.cfg hi.cfgWf pd)

/-- No wait samples. -/
theorem sample_not_mem_waitOps (c : Config) (d : Nat) : .sample ∉ waitOps c d := by
  unfold waitOps
  split <;> simp

/-- INIT samples nothing: it has writes only (42_session_init.md R123). -/
theorem sample_not_mem_initProgram (c : Config) (pd : BitVec 16) : .sample ∉ initProgram c pd := by
  simp [initProgram, initTransactions, program, Transaction.ops, busWriteOps, sample_not_mem_waitOps]

/-- INIT leaves its last word on the lines, driven, with E low (42_session_init.md R125). -/
theorem levelsAfter_initProgram (c : Config) (pd : BitVec 16) (l : Levels) :
    levelsAfter (initProgram c pd) l = (false, false, false, .output, 0x06) := by
  simp only [initProgram, initTransactions, program, Transaction.ops, levelsAfter_append, levelsAfter_waitOps,
    levelsAfter_busWriteOps]
  rfl

end Sys2Proof.Machine

namespace Sys2Proof.Proofs

open Sys2Proof Sys2Proof.Machine

/-- Settles O41, by induction on the ticks that are left. -/
theorem requestCompletes : Obligations.RequestCompletes := by
  intro s hi hn hq
  obtain ⟨v, hrun, hv⟩ := hi.completes hn hq
  obtain ⟨hvalid, herr, hdata⟩ := State.response_eq_some hv.response
  exact ⟨hi.answers_nothing_before hn hq, v, hrun, hv.seq, hvalid, herr,
    (hi.endsWith hn hq hrun).curOp, hdata, hv.session⟩

/-- Settles O47: the registers at the completion of INIT's micro-program. -/
theorem initEndState : Obligations.InitEndState := by
  intro s pd hi hn hq
  have hinv := hi.startInit hq pd
  obtain ⟨v, hrun, hv⟩ := hinv.completes hn rfl
  obtain ⟨hcurOp, hlines, hrdata⟩ := hinv.endsWith hn rfl hrun
  obtain ⟨hmq, htimer, -, -⟩ := hv.inv.idle hv.seq
  obtain ⟨hvalid, herr, hdata⟩ := State.response_eq_some hv.response
  have hrdata := hrdata (sample_not_mem_initProgram s.cfg pd)
  have hsession := hv.session
  rw [State.start_mq, levelsAfter_initProgram] at hlines
  simp only [State.lines, Prod.mk.injEq] at hlines
  obtain ⟨hrs, hrw, he, hdir, hdb⟩ := hlines
  refine ⟨_, v, exec_init pd s, hrun, ?_⟩
  simp [State.block, hv.seq, hcurOp, hrs, hrw, he, hdir, hdb, hmq, htimer, hvalid, herr, hdata, hrdata, hsession, rspOk]

end Sys2Proof.Proofs
end

section
/-! PROOF. The mode words: what they leave of a known controller (20_memory.md R48), and what of them the handshake of
INIT relies on (42_session_init.md R123, R126). -/

namespace Sys2Proof.Machine

open Sys2Proof

/-- A known controller after a mode word with the byte `b`: AC, the selected memory and the cells are unknown, and the
modes are `m` (20_memory.md R48). -/
def State.afterModeWord (s : State) (b : Byte) (m : Modes) : State := { s with
  ctrl := { s.ctrl with
    ac := freeAc s.draws, space := freeSpace s.draws, ddram := [], cgram := [], modes := m
    recent := s.ctrl.noted (busWord false false b) }
  draws := s.draws + 1 }

/-- A mode word that is not the last of the handshake leaves the modes as its effect leaves them (20_memory.md R48). -/
theorem State.latch_modeWord {s : State} (hk : s.ctrl.known = true) {b : Byte} (hb : b ≠ 0x06)
    {eff : Nat → Controller → Controller} {m : Modes} (heff : eff s.draws s.ctrl = { s.ctrl with
      ac := freeAc s.draws, space := freeSpace s.draws, ddram := [], cgram := [], modes := m }) :
    s.latch (busWord false false b) eff = s.afterModeWord b m := by
  rw [State.latch_known hk (busWord_ne_handshakeLast (.inr hb)), heff]
  rfl

/-- The word that completes the handshake of an INIT for which the controller was powered leaves it known, in INIT's
modes (42_session_init.md R125, 70_reset_and_hazards.md R179). -/
theorem Controller.handshake_complete {cfg : Config} {w : BitVec 10} {c : Controller}
    (h : c.poweredForInit = true ∧ isHandshake cfg (c.noted w) = true) :
    c.handshake cfg w = { c with known := true, modes := initModes, recent := c.noted w } :=
  if_pos h

/-- Every other word is only noted. -/
theorem Controller.handshake_incomplete {cfg : Config} {w : BitVec 10} {c : Controller}
    (h : ¬ (c.poweredForInit = true ∧ isHandshake cfg (c.noted w) = true)) :
    c.handshake cfg w = { c with recent := c.noted w } :=
  if_neg h

/-- Entry Mode Set with INIT's flags is the last word of the handshake: it leaves INIT's modes where it completes one
(42_session_init.md R125), and the modes of the other words elsewhere. -/
theorem State.latch_entryInit {s : State} (hk : s.ctrl.known = true) :
    s.latch (busWord false false 0x06) (entryEffect true false) = s.afterModeWord 0x06
      (if s.ctrl.poweredForInit = true ∧ isHandshake s.cfg (s.ctrl.noted 0x006) = true then initModes
       else { s.ctrl.modes with incDec := true, shift := false }) := by
  rw [State.latch, if_pos hk]
  split
  case isTrue hcomplete =>
    rw [Controller.handshake_complete (w := busWord false false 0x06)
      (c := entryEffect true false s.draws s.ctrl) hcomplete]
    simp only [State.afterModeWord, hk]
    rfl
  case isFalse hincomplete =>
    rw [Controller.handshake_incomplete (w := busWord false false 0x06)
      (c := entryEffect true false s.draws s.ctrl) hincomplete]
    rfl

end Sys2Proof.Machine

namespace Sys2Proof.Proofs

open Sys2Proof Sys2Proof.Machine

/-- Settles O59: only Entry Mode Set with INIT's flags can be the last word of the handshake. -/
theorem modeWords : Obligations.ModeWords := by
  intro s f g h hk
  have hentry : ¬ (f = true ∧ g = false) → encEntry f g ≠ 0x06 := by decide +revert
  have hdisplay : encDisplay f g h ≠ 0x06 := by decide +revert
  have hfuncset : encFuncset true f g ≠ 0x06 := by decide +revert
  have hshift : encShift f g ≠ 0x06 := by decide +revert
  refine ⟨congrArg _ (State.latch_entryInit hk), congrArg _ (State.latch_modeWord hk (by decide) ?_),
    congrArg _ (State.latch_modeWord hk (by decide) ?_),
    fun hfree => congrArg _ (State.latch_modeWord hk (hentry hfree) ?_),
    fun hfree => congrArg _ (State.latch_modeWord hk hdisplay ?_),
    fun hfree => congrArg _ (State.latch_modeWord hk hfuncset ?_), congrArg _ (State.latch_modeWord hk hshift ?_)⟩
  · rfl
  · rfl
  · have hflags : (f && !g) = false := by simpa using hfree
    rw [entryEffect, hflags, Controller.modeWord_spec]
    rfl
  · have hflags : (f && g && h) = false := by simpa [and_assoc] using hfree
    rw [displayEffect, hflags, Controller.modeWord_spec]
    rfl
  · have hflags : (f && !g) = false := by simpa using hfree
    rw [funcsetEffect, if_pos rfl, hflags, Controller.modeWord_spec]
    rfl
  · rfl

end Sys2Proof.Proofs
end

section
/-! PROOF. What a controller hears of a running request: the words, each with the time E was low before it, and the
handshake of INIT among them (42_session_init.md R123, R125, R126, 70_reset_and_hazards.md R179). -/

namespace Sys2Proof.Machine

open Sys2Proof

/-! ## The handshake -/

/-- The words of the handshake (42_session_init.md R123). -/
def handshakeWords : List (BitVec 10) := [0x030, 0x038, 0x010, 0x00F, 0x006]

/-- The word `p`, with the time E was low before it, is the word of `q` after at least its wait. -/
abbrev HeardAs (p q : BitVec 10 × Nat) : Prop := p.1 = q.1 ∧ q.2 ≤ p.2

/-- The words of the handshake are heard one by one, each after its wait (42_session_init.md R123). -/
theorem isHandshake_iff (cfg : Config) (words : List (BitVec 10 × Nat)) : isHandshake cfg words = true ↔
    List.Forall₂ HeardAs words (handshakeSteps cfg) := by
  rw [List.forall₂_iff_zip, isHandshake, Bool.and_eq_true, List.all_eq_true]
  refine and_congr beq_iff_eq ⟨fun h a b hab => ?_, fun h p hp => ?_⟩
  · simpa using h (a, b) hab
  · simpa using h (a := p.1) (b := p.2) hp

/-- There are seven of them. -/
theorem length_of_isHandshake {cfg : Config} {words : List (BitVec 10 × Nat)} (h : isHandshake cfg words = true) :
    words.length = 7 :=
  ((isHandshake_iff cfg words).1 h).length_eq

/-- A word that is heard in the handshake is one of its words. -/
theorem mem_of_isHandshake {cfg : Config} {words : List (BitVec 10 × Nat)} (h : isHandshake cfg words = true)
    {p : BitVec 10 × Nat} (hp : p ∈ words) : p.1 ∈ handshakeWords := by
  obtain ⟨k, hk, rfl⟩ := List.mem_iff_getElem.1 hp
  have hsteps := (isHandshake_iff cfg words).1 h
  obtain ⟨hword, -⟩ := hsteps.get hk (hsteps.length_eq ▸ hk)
  have hk7 : k < 7 := length_of_isHandshake h ▸ hk
  simp only [List.get_eq_getElem] at hword
  rw [hword]
  interval_cases k <;> simp [handshakeSteps, handshakeWords]

/-- The words noted end with those heard before, as long as these are at most six, and the new one. -/
theorem Controller.suffix_noted {c : Controller} {heard : List (BitVec 10 × Nat)} (h : heard <:+ c.recent)
    (hlen : heard.length ≤ 6) (w : BitVec 10) : heard ++ [(w, c.gap)] <:+ c.noted w := by
  obtain ⟨before, hbefore⟩ := h
  have hdrop : c.recent.length - 6 ≤ before.length := by
    rw [← hbefore, List.length_append]
    omega
  rw [Controller.noted]
  generalize c.recent.length - 6 = k at hdrop ⊢
  rw [← hbefore, List.append_assoc, List.drop_append_of_le_length hdrop]
  exact List.suffix_append _ _

/-- At most seven words are noted. -/
theorem Controller.length_noted (c : Controller) (w : BitVec 10) : (c.noted w).length ≤ 7 := by
  rw [Controller.noted, List.length_drop, List.length_append]
  simp
  omega

/-! ## What a falling edge does -/

/-- `d` is `c` but for AC, the selected memory, the cells and the modes: what the mode words change. -/
abbrev Controller.SameButContents (c d : Controller) : Prop :=
  d = { c with ac := d.ac, space := d.space, ddram := d.ddram, cgram := d.cgram, modes := d.modes }

/-- The words of the handshake are mode words and a shift, which change the contents only (20_memory.md R48). -/
theorem exec_handshakeWord {w : BitVec 10} (hw : w ∈ handshakeWords) :
    ∃ i eff, decodeBus w = .ok i ∧ (∀ s, exec i s = .next (s.latch w eff)) ∧
      ∀ (n : Nat) (c : Controller), c.SameButContents (eff n c) := by
  simp only [handshakeWords, List.mem_cons, List.not_mem_nil, or_false] at hw
  obtain rfl | rfl | rfl | rfl | rfl := hw
  · exact ⟨.functionSetI true false false, funcsetEffect true false false, rfl, fun _ => rfl, fun _ _ => rfl⟩
  · exact ⟨.functionSetI true true false, funcsetEffect true true false, rfl, fun _ => rfl, fun _ _ => rfl⟩
  · exact ⟨.cursorDisplayShiftI false false, shiftEffect, rfl, fun _ => rfl, fun _ _ => rfl⟩
  · exact ⟨.displayControlI true true true, displayEffect true true true, rfl, fun _ => rfl, fun _ _ => rfl⟩
  · exact ⟨.entryModeSetI true false, entryEffect true false, rfl, fun _ => rfl, fun _ _ => rfl⟩

/-- The controller is in the state INIT leaves: the contract is in force, in INIT's modes (42_session_init.md R125). -/
def Controller.Awake (c : Controller) : Prop := c.known = true ∧ c.modes = initModes

/-- A falling edge of E on a word of the handshake: it is noted, and wakes the controller if it completes the handshake
(42_session_init.md R125, 70_reset_and_hazards.md R179). -/
theorem fallE_handshakeWord {u t : State} {w : BitVec 10} (ha : u.env.attached = true) (hp : u.pulseGood = true)
    (hline : u.wordOnLines = some w) (hw : w ∈ handshakeWords)
    (hpowered : u.ctrl.poweredForInit = true) (h : (fallE u).outcome = .next t) :
    t.ctrl.poweredForInit = true ∧ t.ctrl.recent = u.ctrl.noted w ∧
      (isHandshake u.cfg (u.ctrl.noted w) = true → t.ctrl.Awake) := by
  obtain ⟨i, eff, hdec, hexec, heff⟩ := exec_handshakeWord hw
  rw [fallE_of_word ha hp hline hdec, Fetched.outcome, hexec] at h
  cases h
  have hcontents : ∃ d, u.loweredE.ctrl.SameButContents d ∧
      (u.loweredE.latch w eff).ctrl = d.handshake u.cfg w := by
    rw [State.latch_ctrl]
    cases u.loweredE.ctrl.known
    · exact ⟨_, rfl, rfl⟩
    · exact ⟨_, heff _ _, rfl⟩
  obtain ⟨d, hd, hctrl⟩ := hcontents
  have hnoted : d.noted w = u.ctrl.noted w := by rw [hd]; rfl
  have hd : d.poweredForInit = true := by rw [hd]; exact hpowered
  rw [hctrl, Controller.handshake_poweredForInit, Controller.handshake_recent, hnoted]
  refine ⟨hd, rfl, fun hcomplete => ?_⟩
  rw [Controller.handshake_complete ⟨hd, hnoted ▸ hcomplete⟩]
  exact ⟨rfl, rfl⟩

/-- A falling edge of E keeps the time powered and the time E was low before the pulse, and a new time begins
(20_memory.md R49). -/
theorem fallE_times {u t : State} (h : (fallE u).outcome = .next t) :
    t.ctrl.sinceEdge = 0 ∧ t.ctrl.up = u.ctrl.up ∧ t.ctrl.gap = u.ctrl.gap := by
  obtain ⟨-, hfall⟩ | ⟨-, hfall⟩ | ⟨w, i, -, -, -, hi, hfall⟩ := fallE_cases u <;> rw [hfall] at h
  · cases h
    exact ⟨rfl, rfl, rfl⟩
  · cases h
    exact ⟨rfl, rfl, rfl⟩
  · obtain ⟨v, eff, hexec, hkeeps⟩ := exec_decodeBus w i hi u.loweredE
    obtain ⟨-, ⟨hup, hsince, hgap, -⟩, -⟩ := u.loweredE.latch_spec v eff hkeeps
    rw [Fetched.outcome, hexec] at h
    cases h
    exact ⟨hsince, hup, hgap⟩

/-! ## The words of a micro-program, each with the time E is low before it -/

/-- The lines as the controller hears them: their levels, the time since the last edge of E as far as it was powered,
and the time E was low before the present pulse. -/
structure Ear where
  levels : Levels
  time : Nat
  gap : Nat

/-- The level of E. -/
abbrev Ear.e (v : Ear) : Level := v.levels.2.2.1

/-- What the controller hears after a micro-op (40_transport.md R81). -/
def MicroOp.heard (c : Config) (v : Ear) : MicroOp → Ear
  | .setE true => { levels := MicroOp.levels v.levels (.setE true), time := 0, gap := v.time + c.tTick }
  | .setE false =>
    { levels := MicroOp.levels v.levels (.setE false)
      time := if v.e then 0 else v.time + c.tTick
      gap := v.gap }
  | m => { levels := m.levels v.levels, time := v.time + ticksOfOps [m] * c.tTick, gap := v.gap }

/-- The word a micro-op hands over with a falling edge of E, if it makes one (30_encoding.md R69). -/
def MicroOp.word (v : Ear) : MicroOp → List (BitVec 10 × Nat)
  | .setE false =>
    match v.levels with
    | (rs, rw, e, _, db) => if e then [(busWord rs rw db, v.gap)] else []
  | _ => []

/-- The words of a micro-program. -/
def heardOps (c : Config) : List MicroOp → Ear → List (BitVec 10 × Nat)
  | [], _ => []
  | m :: ms, v => m.word v ++ heardOps c ms (m.heard c v)

/-- What the controller hears of the lines of a state, with the wait under way. -/
def State.ear (s : State) : Ear where
  levels := s.lines
  time := min s.ctrl.sinceEdge s.ctrl.up + s.timer.toNat * s.cfg.tTick
  gap := s.ctrl.gap

/-- The words of the micro-program that is left. -/
def State.wordsLeft (s : State) : List (BitVec 10 × Nat) := heardOps s.cfg s.mq s.ear

/-! ## Tick by tick -/

/-- A tick without a power cycle lets time pass (70_reset_and_hazards.md R180). -/
theorem State.beginTick_ctrl_of_quiet {s : State} (h : s.powerCycle = false) : s.beginTick.ctrl =
    { s.ctrl with up := s.ctrl.up + s.cfg.tTick, sinceEdge := s.ctrl.sinceEdge + s.cfg.tTick } := by
  rw [State.beginTick_ctrl, h, Controller.elapse_quiet]

/-- The tick of a wait moves one T_TICK from TIMER to the time since the last edge of E. -/
theorem State.ear_waitTick {s : State} (hquiet : s.powerCycle = false) (ht : s.timer ≠ 0) :
    (s.beginTick.withTimer (s.timer - 1)).ear = s.ear := by
  have hcount : s.timer.toNat = (s.timer - 1).toNat + 1 := by bv_omega
  have htime : min (s.ctrl.sinceEdge + s.cfg.tTick) (s.ctrl.up + s.cfg.tTick) + (s.timer - 1).toNat * s.cfg.tTick =
      min s.ctrl.sinceEdge s.ctrl.up + s.timer.toNat * s.cfg.tTick := by
    rw [hcount, Nat.succ_mul]
    omega
  simp only [State.ear, State.withTimer_ctrl, State.withTimer_timer, State.withTimer_cfg, State.beginTick_cfg,
    State.beginTick_ctrl_of_quiet hquiet, htime]
  rfl

/-- What the controller hears where no wait is under way. -/
theorem State.ear_of_timer_zero {s : State} (ht : s.timer = 0) :
    s.ear = ⟨s.lines, min s.ctrl.sinceEdge s.ctrl.up, s.ctrl.gap⟩ := by
  simp [State.ear, ht]

/-- A tick more of both times is a tick more of the shorter one. -/
theorem State.min_beginTick_ctrl {s : State} (h : s.powerCycle = false) :
    min s.beginTick.ctrl.sinceEdge s.beginTick.ctrl.up = min s.ctrl.sinceEdge s.ctrl.up + s.cfg.tTick := by
  rw [State.beginTick_ctrl_of_quiet h]
  exact Nat.add_min_add_right ..

/-- The tick of a micro-op makes the controller hear it. -/
theorem Inv.ear_microOpTick {s t : State} (hi : Inv s) (hq : s.seq = .run) (ht : s.timer = 0) {m : MicroOp}
    {rest : List MicroOp} (hm : s.mq = m :: rest) (hquiet : s.powerCycle = false)
    (h : (runMicroOp m (s.beginTick.withMq rest)).outcome = .next t) : t.ear = m.heard s.cfg s.ear := by
  have hsafe := hi.running hq
  rw [hm] at hsafe
  have htime := State.min_beginTick_ctrl hquiet
  have hgap : s.beginTick.ctrl.gap = s.ctrl.gap := by rw [State.beginTick_ctrl_of_quiet hquiet]
  have hlines : t.lines = m.levels s.lines := runMicroOp_lines (u := s.beginTick.withMq rest) h
  cases m with
  | wait n =>
    obtain ⟨hn, -⟩ := hsafe
    have hload : ((s.beginTick.withMq rest).withTimer (n - 1)).ear = ({ s with timer := n } : State).ear :=
      State.ear_waitTick (s := { s with timer := n }) hquiet hn
    cases h
    rw [hload]
    simp [State.ear, MicroOp.heard, ticksOfOps, MicroOp.levels, State.lines, ht]
  | setE v =>
    have htimer : t.timer = 0 := by
      obtain ⟨_, _, rfl⟩ := setE_frame h
      exact ht
    rw [State.ear_of_timer_zero htimer, hlines]
    rw [runMicroOp] at h
    cases v with
    | true =>
      obtain ⟨hlow, -⟩ := hsafe
      rw [setE_true_of_low (u := s.beginTick.withMq rest) hlow] at h
      cases riseE_next h
      simp only [MicroOp.heard, State.ear_of_timer_zero ht, Nat.zero_min, Ear.mk.injEq, true_and]
      exact htime
    | false =>
      cases he : s.eO with
      | true =>
        rw [setE_false_of_high (u := s.beginTick.withMq rest) he] at h
        obtain ⟨hsince, -, hkept⟩ := fallE_times h
        rw [MicroOp.heard, if_pos (c := s.ear.e = true) he, State.ear_of_timer_zero ht, hsince, hkept, Nat.zero_min]
        exact congrArg _ hgap
      | false =>
        have hlow : (s.beginTick.withMq rest).eO = false := he
        have hsilent : ¬ s.ear.e = true := Bool.eq_false_iff.1 he
        rw [← hlow, setE_level] at h
        cases h
        rw [MicroOp.heard, if_neg hsilent, State.ear_of_timer_zero ht, ← htime, ← hgap]
        rfl
  | dirOut | dirIn | drive _ | setRs _ | setRw _ | sample =>
    have hkept : t.timer = 0 ∧ t.ctrl = s.beginTick.ctrl := by
      cases h
      exact ⟨ht, rfl⟩
    obtain ⟨htimer, hctrl⟩ := hkept
    rw [State.ear_of_timer_zero htimer, State.ear_of_timer_zero ht, hlines, hctrl, htime, hgap]
    simp [MicroOp.heard, ticksOfOps]

/-- A micro-op that is no falling edge of E leaves what the controller knows and has heard (40_transport.md R81). -/
theorem runMicroOp_ctrl {m : MicroOp} {u t : State} (h : (runMicroOp m u).outcome = .next t)
    (hfall : ¬ (m = .setE false ∧ u.eO = true)) :
    t.ctrl = { u.ctrl with sinceEdge := t.ctrl.sinceEdge, gap := t.ctrl.gap } := by
  cases m with
  | setE v =>
    rw [runMicroOp] at h
    by_cases he : u.eO = v
    · rw [← he, setE_level] at h
      cases h
      rfl
    · cases v with
      | true =>
        rw [setE_true_of_low (by simpa using he)] at h
        rw [riseE_next h]
      | false => exact absurd ⟨rfl, by simpa using he⟩ hfall
  | dirOut | dirIn | drive _ | setRs _ | setRw _ | sample | wait _ =>
    cases h
    rfl

/-- A micro-op that is no falling edge of E hands over no word. -/
theorem MicroOp.word_of_noFall {m : MicroOp} {s : State} (h : ¬ (m = .setE false ∧ s.eO = true)) :
    m.word s.ear = [] := by
  cases m with
  | setE v =>
    cases v with
    | true => rfl
    | false =>
      have he : s.eO = false := by simpa using h
      simp [State.ear, State.lines, MicroOp.word, he]
  | dirOut | dirIn | drive _ | setRs _ | setRw _ | sample | wait _ => rfl

/-- The falling edge of E hands over the word on the lines (30_encoding.md R69). -/
theorem MicroOp.word_of_fall {s : State} (he : s.eO = true) :
    MicroOp.word s.ear (.setE false) = [(busWord s.rsO s.rwO s.dbO, s.ctrl.gap)] := by
  simp [State.ear, State.lines, MicroOp.word, he]

/-- An attached controller that was powered when INIT was accepted hears the rest of the handshake, in a quiet run: the
words it has heard make one with those that are left, and where none is left it is awake (70_reset_and_hazards.md R179). -/
structure Hears (s : State) (heard : List (BitVec 10 × Nat)) : Prop where
  quiet : s.events = []
  attached : s.env.attached = true
  powered : s.ctrl.poweredForInit = true
  recent : heard <:+ s.ctrl.recent
  whole : isHandshake s.cfg (heard ++ s.wordsLeft) = true
  awake : s.wordsLeft = [] → s.ctrl.Awake

/-- A quiet run has no power cycle in this tick. -/
theorem Hears.powerCycle {s : State} {heard : List (BitVec 10 × Nat)} (h : Hears s heard) : s.powerCycle = false := by
  simp [State.powerCycle, h.quiet]

/-- A tick in which the controller hears no word leaves it hearing the rest. -/
theorem Hears.of_kept {s t : State} {heard : List (BitVec 10 × Nat)} (h : Hears s heard)
    (hev : t.events = s.events.tail) (hcfg : t.cfg = s.cfg ∧ t.env = s.env) (hwords : t.wordsLeft = s.wordsLeft)
    (hctrl : t.ctrl = { s.beginTick.ctrl with sinceEdge := t.ctrl.sinceEdge, gap := t.ctrl.gap }) : Hears t heard := by
  obtain ⟨hcfg, henv⟩ := hcfg
  rw [State.beginTick_ctrl_of_quiet h.powerCycle] at hctrl
  exact {
    quiet := by rw [hev, h.quiet, List.tail_nil]
    attached := henv ▸ h.attached
    powered := by rw [hctrl]; exact h.powered
    recent := by rw [hctrl]; exact h.recent
    whole := by rw [hcfg, hwords]; exact h.whole
    awake := fun hnone => by rw [hctrl]; exact h.awake (hwords ▸ hnone) }

/-- Before the last word at most six have been heard, and each word that is left is one of the handshake. -/
theorem Hears.next_word {s : State} {heard : List (BitVec 10 × Nat)} (h : Hears s heard) {w : BitVec 10} {gap : Nat}
    {rest : List (BitVec 10 × Nat)} (hwords : s.wordsLeft = (w, gap) :: rest) :
    w ∈ handshakeWords ∧ heard.length ≤ 6 ∧ isHandshake s.cfg (heard ++ [(w, gap)] ++ rest) = true := by
  have hwhole := h.whole
  rw [hwords] at hwhole
  have hseven := length_of_isHandshake hwhole
  rw [List.length_append, List.length_cons] at hseven
  refine ⟨mem_of_isHandshake hwhole (p := (w, gap)) (by simp), by omega, ?_⟩
  rwa [List.append_cons] at hwhole

/-- The tick of a falling edge on a word of the handshake: the block drives it for long enough, and the controller notes
it (20_memory.md R43, 70_reset_and_hazards.md R182). -/
theorem Hears.fallTick_ctrl {s t : State} {heard : List (BitVec 10 × Nat)} (h : Hears s heard) (hi : Inv s)
    (hq : s.seq = .run) (ht : s.timer = 0) (he : s.eO = true) {rest : List MicroOp} (hm : s.mq = .setE false :: rest)
    (hw : busWord s.rsO s.rwO s.dbO ∈ handshakeWords)
    (hfall : (fallE (s.beginTick.withMq rest)).outcome = .next t) :
    t.ctrl.poweredForInit = true ∧ t.ctrl.recent = s.ctrl.noted (busWord s.rsO s.rwO s.dbO) ∧
      (isHandshake s.cfg (s.ctrl.noted (busWord s.rsO s.rwO s.dbO)) = true → t.ctrl.Awake) := by
  have hwrite : s.rwO = false := by
    have hbit : ∀ w ∈ handshakeWords, busRw w = false := by decide
    simpa only [busRw_busWord] using hbit _ hw
  have hline : (s.beginTick.withMq rest).wordOnLines = some (busWord s.rsO s.rwO s.dbO) := by
    have hdir : s.dir = .output := by simpa [hwrite] using hi.strobe he
    exact State.wordOnLines_of (.inr ⟨hwrite, hdir, by rw [hwrite]; rfl⟩)
  have hgood : (s.beginTick.withMq rest).pulseGood = true := by
    have hsafe := hi.running hq
    rw [hm, SafeOps, if_pos (c := s.lineView.e = true) he] at hsafe
    obtain ⟨hwide, -⟩ := hsafe
    obtain ⟨-, hsetup, -⟩ := hi.cfgWf
    exact (State.pulseGood_iff _).2 ⟨by simpa [State.lineView, ht] using hwide, hsetup⟩
  have hctrl : (s.beginTick.withMq rest).ctrl = _ := State.beginTick_ctrl_of_quiet h.powerCycle
  have hnoted : (s.beginTick.withMq rest).ctrl.noted (busWord s.rsO s.rwO s.dbO) =
      s.ctrl.noted (busWord s.rsO s.rwO s.dbO) := by
    rw [hctrl]
    rfl
  rw [← hnoted]
  exact fallE_handshakeWord (u := s.beginTick.withMq rest) h.attached hgood hline hw
    (by rw [hctrl]; exact h.powered) hfall

/-- The tick of a falling edge adds its word to the words heard. -/
theorem Hears.fallTick {s t : State} {heard : List (BitVec 10 × Nat)} (h : Hears s heard) (hi : Inv s)
    (hq : s.seq = .run) (ht : s.timer = 0) (he : s.eO = true) {rest : List MicroOp} (hm : s.mq = .setE false :: rest)
    (hcfg : t.cfg = s.cfg ∧ t.env = s.env) (hev : t.events = s.events.tail)
    (hwords : s.wordsLeft = (busWord s.rsO s.rwO s.dbO, s.ctrl.gap) :: t.wordsLeft)
    (hfall : (fallE (s.beginTick.withMq rest)).outcome = .next t) :
    Hears t (heard ++ [(busWord s.rsO s.rwO s.dbO, s.ctrl.gap)]) := by
  obtain ⟨hcfg, henv⟩ := hcfg
  obtain ⟨hw, hlen, hwhole⟩ := h.next_word hwords
  obtain ⟨hpowered, hrecent, hawake⟩ := h.fallTick_ctrl hi hq ht he hm hw hfall
  have hsuffix := Controller.suffix_noted h.recent hlen (busWord s.rsO s.rwO s.dbO)
  exact {
    quiet := by rw [hev, h.quiet, List.tail_nil]
    attached := henv ▸ h.attached
    powered := hpowered
    recent := hrecent ▸ hsuffix
    whole := hcfg ▸ hwhole
    awake := fun hnone => by
      rw [hnone, List.append_nil] at hwhole
      have hseven := length_of_isHandshake hwhole
      have hnoted := s.ctrl.length_noted (busWord s.rsO s.rwO s.dbO)
      rw [← hsuffix.eq_of_length_le (by omega)] at hawake
      exact hawake hwhole }

/-- A tick of a running block that does not complete it leaves the controller hearing the rest of the handshake. -/
theorem RunningTick.hears {s t : State} (hstep : step s = .next t) (h : RunningTick s t) (hi : Inv s)
    (hq : s.seq = .run) {heard : List (BitVec 10 × Nat)} (hh : Hears s heard) : ∃ heard', Hears t heard' := by
  have hcfg := Proofs.configNeverChanges s t hstep
  obtain ⟨-, hev, -⟩ := h.frame
  cases h with
  | wait ht h =>
    subst h
    have hwords : (s.beginTick.withTimer (s.timer - 1)).wordsLeft = s.wordsLeft :=
      congrArg (heardOps s.cfg s.mq) (State.ear_waitTick hh.powerCycle ht)
    exact ⟨heard, hh.of_kept hev hcfg hwords rfl⟩
  | microOp m rest ht hm h =>
    have hmq : t.mq = rest := runMicroOp_mq h
    have hwords : s.wordsLeft = m.word s.ear ++ t.wordsLeft := by
      rw [State.wordsLeft, hm, heardOps, ← hi.ear_microOpTick hq ht hm hh.powerCycle h, State.wordsLeft, hmq, hcfg.1]
    by_cases hfall : m = .setE false ∧ s.eO = true
    · obtain ⟨rfl, he⟩ := hfall
      rw [MicroOp.word_of_fall he] at hwords
      rw [runMicroOp, setE_false_of_high (u := s.beginTick.withMq rest) he] at h
      exact ⟨_, hh.fallTick hi hq ht he hm hcfg hev hwords h⟩
    · rw [MicroOp.word_of_noFall hfall] at hwords
      exact ⟨heard, hh.of_kept hev hcfg hwords.symm (runMicroOp_ctrl (u := s.beginTick.withMq rest) h hfall)⟩

/-- A controller that hears the rest of the handshake is awake when the request has completed. -/
theorem Inv.awake_at_completion {s v : State} (hi : Inv s) (hn : s.noReset) (hq : s.seq = .run)
    (hrun : runs s.ticksLeft s = .next v) {heard : List (BitVec 10 × Nat)} (h : Hears s heard) : v.ctrl.Awake := by
  refine completion_induction (R := fun s v => ∀ heard, Hears s heard → v.ctrl.Awake) ?_ ?_ hi hn hq hrun heard h
  · intro s _ hm heard h
    have hawake : s.ctrl.Awake := h.awake (by rw [State.wordsLeft, hm, heardOps])
    show s.beginTick.ctrl.Awake
    rw [State.beginTick_ctrl_of_quiet h.powerCycle]
    exact hawake
  · intro s t v hi hstep h hq ih heard hh
    obtain ⟨heard', hh'⟩ := h.hears hstep hi hq hh
    exact ih heard' hh'

/-! ## The words of INIT -/

/-- A wait that fits TIMER is heard as its ticks (40_transport.md R85). -/
theorem heardOps_waitOps (c : Config) (d : Nat) (hf : Config.fits c d) (ms : List MicroOp) (v : Ear) :
    heardOps c (waitOps c d ++ ms) v = heardOps c ms { v with time := v.time + ticksOf c d * c.tTick } := by
  have hticks := ticksOfOps_waitOps c d hf
  unfold waitOps at hticks ⊢
  split at hticks
  case isTrue hzero => simp [hzero]
  case isFalse hpos =>
    rw [if_neg hpos, List.singleton_append, heardOps, MicroOp.heard, hticks]
    · rfl
    all_goals simp

/-- A write at a low E hands over its word, with five ticks after the time before it (40_transport.md R88, R90). -/
theorem heardOps_busWriteOps (c : Config) (hf : Config.fits c c.tEH) (rs : Level) (b : Byte) (ms : List MicroOp)
    (v : Ear) (hlow : v.e = false) : heardOps c (busWriteOps c rs b ++ ms) v =
      (busWord rs false b, v.time + 5 * c.tTick) ::
        heardOps c ms ⟨(rs, false, false, .output, b), 0, v.time + 5 * c.tTick⟩ := by
  obtain ⟨⟨rs', rw', e, dir, db⟩, time, gap⟩ := v
  have hfive : time + c.tTick + c.tTick + c.tTick + c.tTick + c.tTick = time + 5 * c.tTick := by omega
  simp only [busWriteOps, List.append_assoc, List.cons_append, List.nil_append, heardOps, heardOps_waitOps c _ hf,
    MicroOp.word, MicroOp.heard, MicroOp.levels, ticksOfOps, Nat.add_zero, Nat.one_mul, hfive, if_true]

/-- The first transaction of a micro-program, with a wait of at least the stated one and its floor (42_session_init.md
R118, R119). -/
theorem program_cons (c : Config) (h : c.wf) (pd : BitVec 16) (x : Transaction) (d : Nat)
    (rest : List (Transaction × Nat)) (hd : Config.fits c d) : ∃ e, max d (x.floor c) ≤ e ∧ Config.fits c e ∧
      program c pd ((x, d) :: rest) = x.ops c ++ (waitOps c e ++ program c pd rest) := by
  have hfits := fits_max c hd (fits_floor c h x)
  cases rest with
  | nil => exact ⟨_, le_max_left _ _, fits_max c hfits (fits_pdNs c h pd), by simp [program]⟩
  | cons y ys => exact ⟨_, le_rfl, hfits, by simp [program]⟩

/-- The words of the writes among transactions, each with the wait stated before it. -/
def stepsAfter : Nat → List (Transaction × Nat) → List (BitVec 10 × Nat)
  | _, [] => []
  | d, (.write rs b, next) :: rest => (busWord rs false b, d) :: stepsAfter next rest
  | _, (.read, next) :: rest => stepsAfter next rest

/-- A micro-program of writes is heard as their words, each after at least the stated wait (42_session_init.md R118). -/
theorem heardOps_program (c : Config) (h : c.wf) (pd : BitVec 16) (xs : List (Transaction × Nat))
    (hfits : ∀ x ∈ xs, Config.fits c x.2) (hwrites : ∀ x ∈ xs, x.1 ≠ .read) (v : Ear) (hlow : v.e = false) (d : Nat)
    (hd : d ≤ v.time) :
    List.Forall₂ HeardAs (heardOps c (program c pd xs) v) (stepsAfter d xs) := by
  induction xs generalizing v d with
  | nil => exact .nil
  | cons x xs ih =>
    obtain ⟨x, next⟩ := x
    obtain ⟨hnext, hrestFits⟩ := List.forall_mem_cons.1 hfits
    obtain ⟨hwrite, hrestWrites⟩ := List.forall_mem_cons.1 hwrites
    cases x with
    | read => exact absurd rfl hwrite
    | write rs b =>
      obtain ⟨wait, hwait, hwaitFits, hprogram⟩ := program_cons c h pd (.write rs b) next xs hnext
      have ⟨_, _, ⟨hEH, _⟩, _⟩ := h
      have hlast := le_ticksOf_mul c h.1 wait
      rw [hprogram, Transaction.ops, heardOps_busWriteOps c hEH _ _ _ _ hlow, heardOps_waitOps c _ hwaitFits,
        stepsAfter]
      refine .cons ⟨rfl, ?_⟩ (ih hrestFits hrestWrites _ rfl _ ?_)
      · show d ≤ v.time + 5 * c.tTick
        omega
      · show next ≤ 0 + ticksOf c wait * c.tTick
        omega

/-- The stated waits of INIT fit TIMER (00_scope.md R8). -/
theorem fits_initTransactions (c : Config) (h : c.wf) : ∀ x ∈ initTransactions c, Config.fits c x.2 := by
  have hzero := fits_zero c h
  have ⟨_, _, ⟨_, _, hwake, hshort, _⟩, _⟩ := h
  simp only [initTransactions, List.forall_mem_cons]
  exact ⟨hwake, hshort, hshort, hshort, hshort, hshort, hzero, List.forall_mem_nil _⟩

/-- INIT's words are heard as the handshake (42_session_init.md R123, R126). -/
theorem isHandshake_initProgram (c : Config) (h : c.wf) (pd : BitVec 16) (v : Ear) (hlow : v.e = false) :
    isHandshake c (heardOps c (initProgram c pd) v) = true := by
  have hsteps : handshakeSteps c = stepsAfter c.tPwr (initTransactions c) := rfl
  have hwrites : ∀ x ∈ initTransactions c, x.1 ≠ .read := by simp [initTransactions]
  have ⟨_, _, ⟨_, hpwr, _⟩, _⟩ := h
  have hwait := le_ticksOf_mul c h.1 c.tPwr
  obtain ⟨⟨rs, rw, e, dir, db⟩, time, gap⟩ := v
  obtain rfl : e = false := hlow
  rw [isHandshake_iff, hsteps, initProgram, List.append_assoc, List.singleton_append, heardOps,
    heardOps_waitOps c _ hpwr]
  refine heardOps_program c h pd _ (fits_initTransactions c h) hwrites _ rfl _ ?_
  show c.tPwr ≤ time + c.tTick + ticksOf c c.tPwr * c.tTick
  omega

/-- An attached, powered controller hears the handshake of an INIT that an idle block starts, whatever it heard before
(42_session_init.md R126, 70_reset_and_hazards.md R179). -/
theorem Inv.hears_init {s : State} (hi : Inv s) (hq : s.seq = .idle) (hev : s.events = [])
    (ha : s.env.attached = true) (hup : 0 < s.ctrl.up) (pd : BitVec 16) :
    Hears (s.start 0x0 (initProgram s.cfg pd)) [] := by
  obtain ⟨-, -, hlow, -⟩ := hi.idle hq
  have hwhole : isHandshake s.cfg (s.start 0x0 (initProgram s.cfg pd)).wordsLeft = true :=
    isHandshake_initProgram s.cfg hi.cfgWf pd _ hlow
  exact {
    quiet := hev
    attached := ha
    powered := by simpa using hup
    recent := List.nil_suffix
    whole := hwhole
    awake := fun hnone => by
      rw [hnone] at hwhole
      cases length_of_isHandshake hwhole }

end Sys2Proof.Machine

namespace Sys2Proof.Proofs

open Sys2Proof Sys2Proof.Machine

/-- Settles O48: the controller hears the whole handshake, and is awake from its last word on. -/
theorem initWakesController : Obligations.InitWakesController := by
  intro s pd hi hev hq ha hup
  have hn : s.noReset := by simp [State.noReset, hev]
  have hinv := hi.startInit hq pd
  obtain ⟨v, hrun, -⟩ := hinv.completes hn rfl
  exact ⟨_, v, exec_init pd s, hrun, hinv.awake_at_completion hn rfl hrun (hi.hears_init hq hev ha hup pd)⟩

end Sys2Proof.Proofs
end


section
/-! PROOF. The acceptance of INIT: its micro-program and its words, from any state (42_session_init.md R118, R123,
R126). -/

namespace Sys2Proof.Machine

open Sys2Proof

/-! ## The words of a micro-program -/

/-- The word of a transaction; that of a read has the byte of the controller (30_encoding.md R69). -/
def Transaction.word : Transaction → Level × Level × Option Byte
  | .write rs b => (rs, false, some b)
  | .read => (true, true, none)

/-- A wait puts no word on the lines (40_transport.md R85). -/
theorem wordsOfOps_waitOps (c : Config) (d : Nat) (ms : List MicroOp) (v : LineView) :
    wordsOfOps (waitOps c d ++ ms) v = wordsOfOps ms v := by
  unfold waitOps
  split <;> rfl

/-- A transaction puts its word on the lines (40_transport.md R88, R89). -/
theorem wordsOfOps_transaction (c : Config) (x : Transaction) (ms : List MicroOp) (v : LineView) :
    ∃ w, wordsOfOps (x.ops c ++ ms) v = x.word :: wordsOfOps ms w := by
  cases x with
  | write rs b =>
    refine ⟨{ v with rs := rs, rw := false, e := false, dir := .output, db := b }, ?_⟩
    simp [Transaction.ops, Transaction.word, busWriteOps, wordsOfOps, wordsOfOps_waitOps]
  | read =>
    refine ⟨{ v with rs := true, rw := true, e := false, dir := .input }, ?_⟩
    simp [Transaction.ops, Transaction.word, busReadOps, wordsOfOps, wordsOfOps_waitOps]

/-- A micro-program puts the words of its transactions on the lines, in order (42_session_init.md R118). -/
theorem wordsOfOps_program (c : Config) (h : c.wf) (pd : BitVec 16) (xs : List (Transaction × Nat))
    (hfits : ∀ x ∈ xs, Config.fits c x.2) (v : LineView) :
    wordsOfOps (program c pd xs) v = xs.map fun x => x.1.word := by
  induction xs generalizing v with
  | nil => rfl
  | cons x xs ih =>
    obtain ⟨x, d⟩ := x
    obtain ⟨hd, hxs⟩ := List.forall_mem_cons.1 hfits
    obtain ⟨e, -, -, hprogram⟩ := program_cons c h pd x d xs hd
    obtain ⟨w, hword⟩ := wordsOfOps_transaction c x (waitOps c e ++ program c pd xs) v
    rw [hprogram, hword, wordsOfOps_waitOps, ih hxs, List.map_cons]

/-- The words of INIT, whatever is on the lines before it (42_session_init.md R123, R126). -/
theorem wordsOfOps_initProgram (c : Config) (h : c.wf) (pd : BitVec 16) (v : LineView) (hlow : v.e = false) :
    wordsOfOps (initProgram c pd) v = (initTransactions c).map fun x => x.1.word := by
  rw [initProgram, List.append_assoc, List.singleton_append, wordsOfOps, if_neg (by simp [hlow]), wordsOfOps_waitOps]
  exact wordsOfOps_program c h pd _ (fits_initTransactions c h) v

/-! ## The micro-program of INIT -/

/-- An instruction byte from 0x04 on has the floor T_CMD (41_encoder.md R110). -/
theorem settlingFloor_of_le (c : Config) {b : Byte} (h : 0x04 ≤ b.toNat) : settlingFloor c false false b = c.tCmd :=
  if_neg fun ⟨_, _, hlt⟩ => absurd h (Nat.not_le.2 hlt)

/-- The micro-program of INIT, written out (42_session_init.md R119, R123). -/
theorem initProgram_eq (c : Config) (pd : BitVec 16) : initProgram c pd =
    ([.setE false] : List MicroOp) ++ waitOps c c.tPwr ++
      (busWriteOps c false 0x30 ++ waitOps c (max c.tWake1 c.tCmd)) ++
      (busWriteOps c false 0x30 ++ waitOps c (max c.tInitShort c.tCmd)) ++
      (busWriteOps c false 0x30 ++ waitOps c (max c.tInitShort c.tCmd)) ++
      (busWriteOps c false 0x38 ++ waitOps c (max c.tInitShort c.tCmd)) ++
      (busWriteOps c false 0x10 ++ waitOps c (max c.tInitShort c.tCmd)) ++
      (busWriteOps c false 0x0F ++ waitOps c (max c.tInitShort c.tCmd)) ++
      (busWriteOps c false 0x06 ++ waitOps c (max c.tCmd (pdNs pd))) := by
  have hwake : encFuncset true false false = 0x30 := by decide
  have hfuncset : encFuncset true true false = 0x38 := by decide
  have hshift : encShift false false = 0x10 := by decide
  have hdisplay : encDisplay true true true = 0x0F := by decide
  have hentry : encEntry true false = 0x06 := by decide
  simp [initProgram, initTransactions, program, Transaction.ops, Transaction.floor, settlingFloor_of_le, hwake,
    hfuncset, hshift, hdisplay, hentry]

end Sys2Proof.Machine

namespace Sys2Proof.Proofs

open Sys2Proof Sys2Proof.Machine

/-- Settles O45: the words of INIT's transactions, from the low E of an idle block. -/
theorem initWords : Obligations.InitWords := by
  intro s pd hi hq
  obtain ⟨-, -, hlow, -⟩ := hi.idle hq
  exact ⟨_, exec_init pd s, wordsOfOps_initProgram s.cfg hi.cfgWf pd _ hlow⟩

/-- Settles O14: INIT starts in either session state, with its micro-program. -/
theorem initRuns : Obligations.InitRuns := by
  intro s pd write
  rw [exec_init, initProgram_eq]
  rfl

end Sys2Proof.Proofs
end

section
/-! PROOF. What a tick does to SESSION, to a presented request, and at a completion (42_session_init.md R115, R116,
R120, R121, R122). -/

namespace Sys2Proof.Machine

open Sys2Proof

/-- A presented request is the head of the requester's list (42_session_init.md R115). -/
theorem State.requester_of_presented {s : State} {r : Request} (h : s.presented = some r) :
    ∃ rest, s.requester = .present r :: rest := by
  unfold State.presented at h
  split at h
  case h_1 r' rest hreq =>
    cases h
    exact ⟨rest, hreq⟩
  case h_2 => cases h

/-- A tick in which no request is taken leaves the presented one (42_session_init.md R122). -/
theorem dropIdle_of_presented {s : State} {r : Request} (h : s.presented = some r) :
    dropIdle s.requester = s.requester := by
  obtain ⟨rest, hreq⟩ := State.requester_of_presented h
  rw [hreq]
  rfl

/-- A tick in which nothing is presented takes one idle tick off the requester's list (42_session_init.md R115). -/
theorem dropIdle_of_none {s : State} (h : s.presented = none) : dropIdle s.requester = s.requester.tail := by
  cases hreq : s.requester with
  | nil => rfl
  | cons x rest =>
    cases x with
    | idle => rfl
    | present r => simp [State.presented, hreq] at h

/-- The state in which the tick of an idle block runs the presented request: the inputs of the tick are used up, and the
request is taken (42_session_init.md R115, R116). -/
theorem State.takeRequest_beginTick {s : State} {r : Request} {rest : List RequesterStep}
    (h : s.requester = .present r :: rest) : s.beginTick.takeRequest = { s.beginTick with requester := rest } := by
  simp only [State.takeRequest, State.beginTick_requester, h, dropIdle, dropRequest]

/-- The acceptance of INIT makes the session UNINIT, and that of another request keeps it (42_session_init.md R121). -/
theorem State.accept_session (s : State) (op : BitVec 4) (ms : List MicroOp) :
    (s.accept op ms).session = if op = 0x0 then .uninit else s.session := by
  obtain ⟨hillegal, h⟩ | ⟨-, hop, -, h⟩ | ⟨-, -, h⟩ := s.accept_cases op ms <;> rw [h]
  · have hop : op ≠ 0x0 := by
      rintro rfl
      exact absurd hillegal (by decide)
    rw [if_neg hop, State.raise_session]
  · rw [if_neg hop, State.raise_session]
  · rfl

end Sys2Proof.Machine

namespace Sys2Proof.Proofs

open Sys2Proof Sys2Proof.Machine

/-- Settles O24, by what the tick of a running block is: a tick of a wait, the completion, or a micro-op. -/
theorem busyBlockHoldsRequest : Obligations.BusyBlockHoldsRequest := by
  intro s t r hq hrst hp hstep
  have hheld : s.beginTick.requester = s.requester := dropIdle_of_presented hp
  have hpresented : ∀ u : State, u.requester = s.requester → u.presented = some r := by
    intro u hu
    rw [← hp, State.presented, State.presented, hu]
  obtain ⟨-, ⟨hrst', -⟩ | ⟨-, -, ht, rfl⟩ | ⟨-, -, ht, hm, rfl⟩ | ⟨m, rest, -, -, ht, hm, hop⟩ | ⟨-, hidle, -⟩ |
    ⟨r', -, hidle, -⟩⟩ := step_cases hstep
  · cases hrst.symm.trans hrst'
  · exact ⟨hheld, hpresented _ hheld, rfl, iff_of_false Bool.false_ne_true fun ⟨hzero, _⟩ => ht hzero,
      fun h => (nomatch h), fun _ => hq⟩
  · exact ⟨hheld, hpresented _ hheld, rfl, iff_of_true rfl ⟨ht, hm⟩, fun _ => ⟨rfl, rfl⟩, fun h => nomatch h⟩
  · obtain ⟨_, _, _, _, _, _, _, _, _, rfl⟩ := runMicroOp_frame hop
    exact ⟨hheld, hpresented _ hheld, rfl, iff_of_false Bool.false_ne_true (by simp [hm]), fun h => (nomatch h),
      fun _ => hq⟩
  · cases hq.symm.trans hidle
  · cases hq.symm.trans hidle

/-- Settles O26, by what the tick is: only a reset, the completion of INIT and its acceptance write SESSION. -/
theorem sessionTransitions : Obligations.SessionTransitions := by
  intro s t hstep
  obtain ⟨-, ⟨hrst, rfl⟩ | ⟨hrst, hq, ht, rfl⟩ | ⟨hrst, hq, ht, hm, rfl⟩ | ⟨m, rest, hrst, hq, ht, hm, hop⟩ |
    ⟨hrst, hq, hp, rfl⟩ | ⟨r, hrst, hq, hp, hreq⟩⟩ := step_cases hstep
  · simp [hrst]
  · have hwaits : ¬ (s.timer = 0 ∧ s.mq = [] ∧ s.curOp = 0x0) := fun ⟨hzero, _⟩ => ht hzero
    simp only [hrst, hq, Bool.false_eq_true, if_false, if_neg hwaits]
    rfl
  · simp only [hrst, hq, ht, hm, true_and, Bool.false_eq_true, if_false]
    rfl
  · obtain ⟨_, _, _, _, _, _, _, _, _, rfl⟩ := runMicroOp_frame hop
    simp [hrst, hq, hm]
  · simp [hrst, hq, hp]
  · obtain ⟨ms, hexec⟩ := exec_decodeRequest r.req r.lb s.beginTick.takeRequest
    cases hexec.symm.trans hreq
    simp [hrst, hq, hp, State.accept_session]

/-- Settles O19: the tick begins, and the request is taken and run, or nothing is presented. -/
theorem stepRunsPresentedRequest : Obligations.StepRunsPresentedRequest := by
  refine ⟨fun s r rest hr hrst hq hreq => ?_, fun s hr hrst hq hp => ?_⟩
  · have hp : s.presented = some r := by rw [State.presented, hreq]
    rw [step_request s hr hrst hq r hp, State.takeRequest_beginTick hreq]
    rfl
  · rw [step_quiet s hr hrst hq hp, ← dropIdle_of_none hp]
    rfl

/-- Settles O25: the tick begins, and the request completes. -/
theorem completionAnswers : Obligations.CompletionAnswers := fun s => step_complete s

end Sys2Proof.Proofs
end

section
/-! PROOF. The requests of one transaction in READY: the byte of each instruction (30_encoding.md R70), its settling
floor (41_encoder.md R110), and the micro-program that is queued (42_session_init.md R118, R119, 43_session_ops.md R136
to R146). -/

namespace Sys2Proof.Machine

open Sys2Proof

/-! ## The bytes, bit by bit -/

theorem encEntry_eq_append (incDec shift : Bool) :
    encEntry incDec shift = 0b000001#6 ++ BitVec.ofBool incDec ++ BitVec.ofBool shift := by
  revert incDec shift
  decide

theorem encDisplay_eq_append (display cursor blink : Bool) : encDisplay display cursor blink =
    0b00001#5 ++ BitVec.ofBool display ++ BitVec.ofBool cursor ++ BitVec.ofBool blink := by
  revert display cursor blink
  decide

theorem encShift_eq_append (shiftCursor dir : Bool) :
    encShift shiftCursor dir = 0b0001#4 ++ BitVec.ofBool shiftCursor ++ BitVec.ofBool dir ++ 0b00#2 := by
  revert shiftCursor dir
  decide

theorem encFuncset_eq_append (dl n f : Bool) : encFuncset dl n f =
    0b001#3 ++ BitVec.ofBool dl ++ BitVec.ofBool n ++ BitVec.ofBool f ++ 0b00#2 := by
  revert dl n f
  decide

/-- The mask keeps the low 6 bits of the address (41_encoder.md R107). -/
theorem encCgram_eq_append (a : Byte) : encCgram a = 0b01#2 ++ a.extractLsb' 0 6 := by
  refine BitVec.eq_of_getLsbD_eq fun i hi => ?_
  refine Eq.trans ?_ (BitVec.getLsbD_append (x := 0b01#2) (y := a.extractLsb' 0 6)).symm
  interval_cases i <;> simp [encCgram]

/-- The mask keeps the low 7 bits of the address (41_encoder.md R108). -/
theorem encDdram_eq_append (a : Byte) : encDdram a = 0b1#1 ++ a.extractLsb' 0 7 := by
  refine BitVec.eq_of_getLsbD_eq fun i hi => ?_
  refine Eq.trans ?_ (BitVec.getLsbD_append (x := 0b1#1) (y := a.extractLsb' 0 7)).symm
  interval_cases i <;> simp [encDdram]

/-- The floor of an instruction byte that is of none of the three lowest classes (41_encoder.md R110). -/
theorem settlingFloor_of_class (c : Config) {b : Byte} {cl : ByteClass} (h : byteClass b = cl)
    (hcl : cl ≠ .none ∧ cl ≠ .clearDisplay ∧ cl ≠ .returnHome) : settlingFloor c false false b = c.tCmd := by
  obtain ⟨hfloor, -⟩ := Proofs.floorByClass c b
  rw [hfloor, h, if_neg (by tauto)]

/-! ## What is queued -/

/-- In READY a request other than INIT is queued, and nothing else changes (42_session_init.md R117, R118). -/
theorem State.accept_queues {s : State} (hs : s.session = .ready) {op : BitVec 4} (hop : op ≠ 0x0 ∧ op.toNat < 0xD)
    (ms : List MicroOp) : s.accept op ms = { s with seq := .run, curOp := op, mq := ms } := by
  obtain ⟨hinit, hlegal⟩ := hop
  rw [State.accept_ready s op ms hlegal hs, State.start, if_neg hinit, if_neg hinit]

/-- The micro-program of one transaction: no wait is stated, so its floor counts, and PD (42_session_init.md R119). -/
theorem single_eq (c : Config) (pd : BitVec 16) (x : Transaction) :
    single c pd x = x.ops c ++ waitOps c (max (x.floor c) (pdNs pd)) := by
  rw [single, program, Nat.zero_max]

/-- A request of one write in READY queues its transaction and the final wait (40_transport.md R88, 42_session_init.md
R119). -/
theorem exec_oneWrite {s : State} (hs : s.session = .ready) {i : Instr} {op : BitVec 4} {rs : Level} {b b' : Byte}
    {d : Nat} {pd : BitVec 16} (hi : exec i s = .next (s.accept op (single s.cfg pd (.write rs b))))
    (hop : op ≠ 0x0 ∧ op.toNat < 0xD) (hb : b = b') (hd : settlingFloor s.cfg rs false b = d) :
    exec i s = .next { s with
      seq := .run, curOp := op, mq := busWriteOps s.cfg rs b' ++ waitOps s.cfg (max d (pdNs pd)) } := by
  rw [hi, State.accept_queues hs hop, single_eq, Transaction.floor, hd, hb]
  rfl

end Sys2Proof.Machine

namespace Sys2Proof.Proofs

open Sys2Proof Sys2Proof.Machine

/-- Settles O12: each request is accepted with the write of its byte, whose floor is that of its class. -/
theorem oneWriteRequestsRun : Obligations.OneWriteRequestsRun := by
  intro s pd a f g h hs queue
  obtain ⟨-, hdata, -⟩ := floorByClass s.cfg a
  have hcommand : settlingFloor s.cfg false false a = if a.toNat < 4 then s.cfg.tClear else s.cfg.tCmd := by
    simp [settlingFloor]
  refine ⟨exec_oneWrite hs rfl (by decide) rfl hcommand, exec_oneWrite hs rfl (by decide) rfl hdata,
    exec_oneWrite hs rfl (by decide) rfl rfl, exec_oneWrite hs rfl (by decide) rfl rfl,
    exec_oneWrite hs rfl (by decide) (encEntry_eq_append f g) ?_,
    exec_oneWrite hs rfl (by decide) (encDisplay_eq_append f g h) ?_,
    exec_oneWrite hs rfl (by decide) (encShift_eq_append f g) ?_,
    exec_oneWrite hs rfl (by decide) (encFuncset_eq_append f g h) ?_,
    exec_oneWrite hs rfl (by decide) (encCgram_eq_append a) ?_,
    exec_oneWrite hs rfl (by decide) (encDdram_eq_append a) ?_⟩
  · exact settlingFloor_of_class _ (byteClass_encEntry f g) (by decide)
  · exact settlingFloor_of_class _ (byteClass_encDisplay f g h) (by decide)
  · exact settlingFloor_of_class _ (byteClass_encShift f g) (by decide)
  · exact settlingFloor_of_class _ (byteClass_encFuncset f g h) (by decide)
  · exact settlingFloor_of_class _ (byteClass_encCgram a) (by decide)
  · exact settlingFloor_of_class _ (byteClass_encDdram a) (by decide)

/-- Settles O13: READ_BYTE is accepted with its read, whose floor is T_CMD. -/
theorem readByteRuns : Obligations.ReadByteRuns := by
  intro s pd hs
  obtain ⟨-, -, hread⟩ := floorByClass s.cfg 0
  have hexec : exec (.readByte pd) s = .next (s.accept 0x3 (single s.cfg pd .read)) := rfl
  rw [hexec, State.accept_queues hs (by decide), single_eq, Transaction.floor, hread]
  rfl

end Sys2Proof.Proofs
end

section
/-! PROOF. WRITE_TWO_LINES when it is taken: its micro-program and its words (42_session_init.md R118, R119,
43_session_ops.md R147, R148). -/

namespace Sys2Proof.Machine

open Sys2Proof

/-! ## The words -/

/-- WRITE_TWO_LINES starts in READY (42_session_init.md R117, 43_session_ops.md R147). -/
theorem exec_writeTwoLines_ready {line1 line2 : List Byte} (pd : BitVec 16) {s : State} (hs : s.session = .ready)
    (h1 : line1.length = rowLen) (h2 : line2.length = rowLen) : exec (.writeTwoLines line1 line2 pd) s =
      .next (s.start 0xC (program s.cfg pd (lineTransactions s.cfg line1 line2))) := by
  rw [exec_writeTwoLines pd s h1 h2, State.accept_ready s 0xC _ (by decide) hs]

/-- The stated waits of WRITE_TWO_LINES fit TIMER (00_scope.md R8). -/
theorem fits_lineTransactions (c : Config) (h : c.wf) (line1 line2 : List Byte) :
    ∀ x ∈ lineTransactions c line1 line2, Config.fits c x.2 := by
  have hzero := fits_zero c h
  have ⟨_, _, ⟨_, _, _, _, hdata, _⟩, _⟩ := h
  have row : ∀ (a : Byte) (line : List Byte), ∀ x ∈ (Transaction.write false a, 0) ::
      line.map (fun b => (.write true b, c.tData)), Config.fits c x.2 := fun _ _ =>
    List.forall_mem_cons.2 ⟨hzero, List.forall_mem_map.2 fun _ _ => hdata⟩
  exact List.forall_mem_append.2 ⟨row _ line1, row _ line2⟩

/-- The words of WRITE_TWO_LINES (43_session_ops.md R148). -/
theorem wordsOfOps_lines (c : Config) (h : c.wf) (pd : BitVec 16) (line1 line2 : List Byte) (v : LineView) :
    wordsOfOps (program c pd (lineTransactions c line1 line2)) v =
      (false, false, some 0x80) :: line1.map (fun b => (true, false, some b)) ++
        (false, false, some 0xC0) :: line2.map (fun b => (true, false, some b)) := by
  rw [wordsOfOps_program c h pd _ (fits_lineTransactions c h line1 line2)]
  simp [lineTransactions, Transaction.word, encDdram, row0Base, row1Base, Function.comp_def]

/-! ## The micro-program -/

/-- A micro-program with its last transaction set apart: only its wait is lengthened by PD (42_session_init.md R118,
R119). -/
theorem program_append_last (c : Config) (pd : BitVec 16) (xs : List (Transaction × Nat)) (x : Transaction) (d : Nat) :
    program c pd (xs ++ [(x, d)]) = xs.flatMap (fun y => y.1.ops c ++ waitOps c (max y.2 (y.1.floor c))) ++
      (x.ops c ++ waitOps c (max (max d (x.floor c)) (pdNs pd))) := by
  induction xs with
  | nil => rfl
  | cons y ys ih =>
    obtain ⟨z, zs, hrest⟩ : ∃ z zs, ys ++ [(x, d)] = z :: zs := List.exists_cons_of_ne_nil (by simp)
    rw [hrest] at ih
    rw [List.cons_append, hrest, program, ih, List.flatMap_cons, List.append_assoc]
    · simp only [List.append_assoc]
    · simp

/-- The micro-program of WRITE_TWO_LINES, written out (42_session_init.md R119, 43_session_ops.md R147). -/
theorem program_lines (c : Config) (pd : BitVec 16) (line1 front : List Byte) (last : Byte) :
    program c pd (lineTransactions c line1 (front ++ [last])) =
      (busWriteOps c false 0x80 ++ waitOps c c.tCmd) ++
      line1.flatMap (fun b => busWriteOps c true b ++ waitOps c (max c.tData c.tCmd)) ++
      (busWriteOps c false 0xC0 ++ waitOps c c.tCmd) ++
      front.flatMap (fun b => busWriteOps c true b ++ waitOps c (max c.tData c.tCmd)) ++
      (busWriteOps c true last ++ waitOps c (max (max c.tData c.tCmd) (pdNs pd))) := by
  have hlast : lineTransactions c line1 (front ++ [last]) =
      lineTransactions c line1 front ++ [(.write true last, c.tData)] := by simp [lineTransactions]
  have hrow0 : encDdram row0Base = 0x80 := by decide
  have hrow1 : encDdram row1Base = 0xC0 := by decide
  have hdata : ∀ b, settlingFloor c true false b = c.tCmd := fun b => by simp [settlingFloor]
  rw [hlast, program_append_last]
  simp [lineTransactions, Transaction.ops, Transaction.floor, settlingFloor_of_le, hrow0, hrow1, hdata,
    List.flatMap_map]

end Sys2Proof.Machine

namespace Sys2Proof.Proofs

open Sys2Proof Sys2Proof.Machine

/-- Settles O46: the words of the transactions of the two lines. -/
theorem writeTwoLinesWords : Obligations.WriteTwoLinesWords := by
  intro s pd line1 line2 hi _ hs h1 h2
  refine ⟨_, exec_writeTwoLines_ready pd hs h1 h2, wordsOfOps_lines s.cfg hi.cfgWf pd line1 line2 _, ?_⟩
  rw [State.start_mq, wordsOfOps_lines s.cfg hi.cfgWf]
  simp [h1, h2]

/-- Settles O15: the request is accepted with its micro-program, whose last wait is the last byte's. -/
theorem writeTwoLinesRuns : Obligations.WriteTwoLinesRuns := by
  intro s pd write
  refine ⟨fun line1 front last hs h1 hfront => ?_, fun line1 line2 hlen => ?_⟩
  · rw [exec_writeTwoLines pd s h1 (by simp [hfront, rowLen]), State.accept_queues hs (by decide), program_lines]
    rfl
  · exact if_neg fun ⟨h1, h2⟩ => hlen.elim (· h1) (· h2)

end Sys2Proof.Proofs
end

section
/-! PROOF. What the words of a running request do to a controller under the contract, where each of them sets the DDRAM
address or writes data (20_memory.md R43, R45, R47). -/

namespace Sys2Proof.Machine

open Sys2Proof

/-! ## The words that write the display -/

/-- A word that sets the DDRAM address or writes data. -/
inductive DisplayWord where
  | address (a : BitVec 7)
  | data (b : Byte)

/-- RS of the word (30_encoding.md R69). -/
def DisplayWord.rs : DisplayWord → Level
  | .address _ => false
  | .data _ => true

/-- The byte of the word (41_encoder.md R108). -/
def DisplayWord.byte : DisplayWord → Byte
  | .address a => encDdram (a.setWidth 8)
  | .data b => b

/-- What the word does to a controller under the contract (20_memory.md R45, R47). -/
def DisplayWord.effect (cfg : Config) (n : Nat) (c : Controller) : DisplayWord → Controller
  | .address a => setDdramEffect a c
  | .data b => (c.store cfg b).advance cfg n

/-- What words do to a controller one after another, from draw `n` on. -/
def displayed (cfg : Config) : List DisplayWord → Nat → Controller → Controller
  | [], _, c => c
  | w :: ws, n, c => displayed cfg ws (n + 1) (w.effect cfg n c)

/-- The controller but for what the handshake and the timing rest on, which no effect of these words reads. -/
def Controller.contents (c : Controller) : Controller :=
  { c with recent := [], poweredForInit := false, up := 0, sinceEdge := 0, gap := 0, need := 0 }

/-- The effect is one on the contents. -/
theorem DisplayWord.contents_effect (cfg : Config) (n : Nat) (c : Controller) (w : DisplayWord) :
    (w.effect cfg n c).contents = w.effect cfg n c.contents := by
  cases w with
  | address a => rfl
  | data b =>
    obtain ⟨ac, space, _⟩ := c
    simp only [DisplayWord.effect, Controller.advance_spec, Controller.store_eq]
    cases space <;> rfl

/-- Whether the contract is in force is part of the contents. -/
theorem Controller.contents_known (c : Controller) : c.contents.known = c.known := rfl

/-- Neither word takes the contract out of force. -/
theorem DisplayWord.known_effect (cfg : Config) (n : Nat) (c : Controller) (w : DisplayWord) :
    (w.effect cfg n c).known = c.known := by
  cases w with
  | address a => rfl
  | data b =>
    obtain ⟨-, -, dd, cg, hstore⟩ := c.store_spec cfg b
    rw [DisplayWord.effect, Controller.advance_spec, hstore]

/-- The word decodes to an instruction that latches it with its effect (30_encoding.md R70, R75). -/
theorem DisplayWord.decodes (w : DisplayWord) : ∃ i, decodeBus (busWord w.rs false w.byte) = .ok i ∧
    ∀ s, exec i s = .next (s.latch (busWord w.rs false w.byte) (w.effect s.cfg · ·)) := by
  cases w with
  | address a =>
    refine ⟨.setDdramAddressI a, decodeBus_of_encodeCode ?_, fun _ => rfl⟩
    rw [DisplayWord.byte, encDdram_setWidth]
    rfl
  | data b => exact ⟨.dataWrite b, decodeBus_of_encodeCode rfl, fun _ => rfl⟩

/-- The word is not the last of the handshake (42_session_init.md R123). -/
theorem DisplayWord.ne_handshakeLast (w : DisplayWord) : busWord w.rs false w.byte ≠ 0x006 := by
  cases w with
  | address a => exact busWord_ne_handshakeLast (.inr (encDdram_ne_handshakeLast _))
  | data b => exact busWord_ne_handshakeLast (.inl rfl)

/-- A falling edge of E on such a word has its effect on the contents of an attached controller under the contract
(20_memory.md R43). -/
theorem fallE_displayWord {u t : State} (ha : u.env.attached = true) (hp : u.pulseGood = true)
    (hk : u.ctrl.known = true) (w : DisplayWord) (hline : u.wordOnLines = some (busWord w.rs false w.byte))
    (h : (fallE u).outcome = .next t) :
    t.ctrl.contents = w.effect u.cfg u.draws u.ctrl.contents ∧ t.draws = u.draws + 1 := by
  obtain ⟨i, hdec, hexec⟩ := w.decodes
  rw [fallE_of_word ha hp hline hdec, Fetched.outcome, hexec,
    State.latch_known (s := u.loweredE) hk w.ne_handshakeLast] at h
  cases h
  exact ⟨w.contents_effect u.cfg u.draws u.loweredE.ctrl, rfl⟩

/-! ## Tick by tick -/

/-- The words that are left are the same after a micro-op that is no falling edge of E (30_encoding.md R69). -/
theorem wordsOfOps_noFall {s t : State} {m : MicroOp} {rest : List MicroOp} (hm : s.mq = m :: rest)
    (h : (runMicroOp m (s.beginTick.withMq rest)).outcome = .next t) (hfall : ¬ (m = .setE false ∧ s.eO = true)) :
    wordsOfOps t.mq t.lineView = wordsOfOps s.mq s.lineView := by
  have hmq : t.mq = rest := runMicroOp_mq h
  rw [hm, hmq]
  cases m with
  | dirOut | dirIn | drive _ | setRs _ | setRw _ | sample | wait _ =>
    cases h
    rw [wordsOfOps]
    exact wordsOfOps_congr rest rfl rfl rfl rfl
  | setE v =>
    obtain ⟨c, n, rfl⟩ := setE_frame h
    cases v with
    | true =>
      rw [wordsOfOps]
      exact wordsOfOps_congr rest rfl rfl rfl rfl
    | false =>
      have hlow : s.eO = false := by simpa using hfall
      rw [wordsOfOps, if_neg (by simp [State.lineView, hlow])]
      exact wordsOfOps_congr rest rfl rfl hlow.symm rfl

/-- A falling edge of E takes the word on the lines off those that are left (30_encoding.md R69). -/
theorem wordsOfOps_fall {s t : State} {rest : List MicroOp} (hm : s.mq = .setE false :: rest) (he : s.eO = true)
    (h : (fallE (s.beginTick.withMq rest)).outcome = .next t) :
    wordsOfOps s.mq s.lineView =
      (s.rsO, s.rwO, if s.rwO then none else some s.dbO) :: wordsOfOps t.mq t.lineView := by
  rw [← setE_false_of_high (u := s.beginTick.withMq rest) he] at h
  obtain ⟨c, n, rfl⟩ := setE_frame h
  rw [hm, wordsOfOps, if_pos (by exact he)]
  exact congrArg _ (wordsOfOps_congr rest rfl rfl rfl rfl)

/-- A micro-op draws at a sample and at a falling edge of E only (notes/assumptions/12.md). -/
theorem runMicroOp_draws {m : MicroOp} {u t : State} (h : (runMicroOp m u).outcome = .next t) (hm : m ≠ .sample)
    (hfall : ¬ (m = .setE false ∧ u.eO = true)) : t.draws = u.draws := by
  cases m with
  | setE v =>
    rw [runMicroOp] at h
    by_cases he : u.eO = v
    · rw [← he, setE_level] at h
      cases h
      rfl
    · cases v with
      | true =>
        rw [setE_true_of_low (by simpa using he)] at h
        rw [riseE_next h]
      | false => exact absurd ⟨rfl, by simpa using he⟩ hfall
  | sample => exact absurd rfl hm
  | dirOut | dirIn | drive _ | setRs _ | setRw _ | wait _ =>
    cases h
    rfl

/-- In a quiet run the attached controller is under the contract, and of the running request the words `ws` are left to
hand over to it. -/
structure Displays (s : State) (ws : List DisplayWord) : Prop where
  quiet : s.events = []
  attached : s.env.attached = true
  known : s.ctrl.known = true
  writesOnly : .sample ∉ s.mq
  words : wordsOfOps s.mq s.lineView = ws.map fun w => (w.rs, false, some w.byte)

/-- What the controller of a state holds after words. -/
def State.contentsAfter (s : State) (ws : List DisplayWord) : Controller := displayed s.cfg ws s.draws s.ctrl.contents

/-- A quiet run has no power cycle in this tick. -/
theorem Displays.powerCycle {s : State} {ws : List DisplayWord} (h : Displays s ws) : s.powerCycle = false := by
  simp [State.powerCycle, h.quiet]

/-- The start of a tick leaves what the controller holds. -/
theorem Displays.contents_beginTick {s : State} {ws : List DisplayWord} (h : Displays s ws) :
    s.beginTick.ctrl.contents = s.ctrl.contents := by
  rw [State.beginTick_ctrl_of_quiet h.powerCycle]
  rfl

/-- The start of a tick draws nothing. -/
theorem Displays.draws_beginTick {s : State} {ws : List DisplayWord} (h : Displays s ws) :
    s.beginTick.draws = s.draws := by
  simp [h.powerCycle]

/-- A tick that hands over no word leaves the words and what the controller holds. -/
theorem Displays.of_kept {s t : State} {ws : List DisplayWord} (h : Displays s ws) (hev : t.events = s.events.tail)
    (hcfg : t.cfg = s.cfg ∧ t.env = s.env) (hmq : .sample ∉ t.mq)
    (hwords : wordsOfOps t.mq t.lineView = wordsOfOps s.mq s.lineView)
    (hctrl : t.ctrl.contents = s.beginTick.ctrl.contents) (hdraws : t.draws = s.beginTick.draws) :
    Displays t ws ∧ t.contentsAfter ws = s.contentsAfter ws := by
  obtain ⟨hcfg, henv⟩ := hcfg
  rw [h.contents_beginTick] at hctrl
  rw [h.draws_beginTick] at hdraws
  exact ⟨{
      quiet := by rw [hev, h.quiet, List.tail_nil]
      attached := henv ▸ h.attached
      known := by rw [← t.ctrl.contents_known, hctrl]; exact h.known
      writesOnly := hmq
      words := hwords.trans h.words },
    by rw [State.contentsAfter, hcfg, hdraws, hctrl, State.contentsAfter]⟩

/-- The tick of a falling edge of E in a safe micro-program ends a good pulse (70_reset_and_hazards.md R182, R183). -/
theorem Inv.pulseGood_fallTick {s : State} (hi : Inv s) (hq : s.seq = .run) (ht : s.timer = 0) (he : s.eO = true)
    {rest : List MicroOp} (hm : s.mq = .setE false :: rest) : (s.beginTick.withMq rest).pulseGood = true := by
  have hsafe := hi.running hq
  rw [hm, SafeOps, if_pos (c := s.lineView.e = true) he] at hsafe
  obtain ⟨hwide, -⟩ := hsafe
  obtain ⟨-, hsetup, -⟩ := hi.cfgWf
  exact (State.pulseGood_iff _).2 ⟨by simpa [State.lineView, ht] using hwide, hsetup⟩

/-- The tick of a falling edge hands over the next word, which has its effect. -/
theorem Displays.fallTick {s t : State} {ws : List DisplayWord} (h : Displays s ws) (hi : Inv s) (hq : s.seq = .run)
    (ht : s.timer = 0) (he : s.eO = true) {rest : List MicroOp} (hm : s.mq = .setE false :: rest)
    (hcfg : t.cfg = s.cfg ∧ t.env = s.env) (hev : t.events = s.events.tail) (hmq : .sample ∉ t.mq)
    (hfall : (fallE (s.beginTick.withMq rest)).outcome = .next t) :
    ∃ ws', Displays t ws' ∧ t.contentsAfter ws' = s.contentsAfter ws := by
  obtain ⟨hcfg, henv⟩ := hcfg
  have hwords := h.words
  rw [wordsOfOps_fall hm he hfall] at hwords
  cases ws with
  | nil => cases hwords
  | cons w ws =>
    simp only [List.map_cons, List.cons.injEq, Prod.mk.injEq] at hwords
    obtain ⟨⟨hrs, hrw, hdb⟩, hwords⟩ := hwords
    have hdb : s.dbO = w.byte := by simpa [hrw] using hdb
    have hdir : s.dir = .output := by simpa [hrw] using hi.strobe he
    have hline : (s.beginTick.withMq rest).wordOnLines = some (busWord w.rs false w.byte) :=
      State.wordOnLines_of (.inr ⟨hrw, hdir, by rw [← hrs, ← hdb]; rfl⟩)
    have hknown : s.beginTick.ctrl.known = true := by
      rw [State.beginTick_ctrl_of_quiet h.powerCycle]
      exact h.known
    obtain ⟨hctrl, hdraws⟩ := fallE_displayWord (u := s.beginTick.withMq rest) h.attached
      (hi.pulseGood_fallTick hq ht he hm) hknown w hline hfall
    have hdraws : t.draws = s.draws + 1 := hdraws.trans (congrArg (· + 1) h.draws_beginTick)
    have hctrl : t.ctrl.contents = w.effect s.cfg s.draws s.ctrl.contents := by
      rw [hctrl, State.withMq_ctrl, State.withMq_draws, h.contents_beginTick, h.draws_beginTick]
      rfl
    refine ⟨ws, {
        quiet := by rw [hev, h.quiet, List.tail_nil]
        attached := henv ▸ h.attached
        known := by rw [← t.ctrl.contents_known, hctrl, w.known_effect]; exact h.known
        writesOnly := hmq
        words := hwords }, ?_⟩
    rw [State.contentsAfter, hcfg, hdraws, hctrl]
    rfl

/-- A tick of a running block that does not complete it leaves what the controller will hold. -/
theorem RunningTick.displays {s t : State} (hstep : step s = .next t) (h : RunningTick s t) (hi : Inv s)
    (hq : s.seq = .run) {ws : List DisplayWord} (hd : Displays s ws) :
    ∃ ws', Displays t ws' ∧ t.contentsAfter ws' = s.contentsAfter ws := by
  have hcfg := Proofs.configNeverChanges s t hstep
  obtain ⟨-, hev, -⟩ := h.frame
  cases h with
  | wait ht h =>
    subst h
    have hwords : wordsOfOps s.mq (s.beginTick.withTimer (s.timer - 1)).lineView = wordsOfOps s.mq s.lineView :=
      congrArg _ (s.lineView_waitTick ht)
    exact ⟨ws, hd.of_kept hev hcfg hd.writesOnly hwords rfl rfl⟩
  | microOp m rest ht hm h =>
    have hmq : t.mq = rest := runMicroOp_mq h
    have hwrites := hd.writesOnly
    rw [hm, List.mem_cons, not_or] at hwrites
    obtain ⟨hhead, htail⟩ := hwrites
    by_cases hfall : m = .setE false ∧ s.eO = true
    · obtain ⟨rfl, he⟩ := hfall
      rw [runMicroOp, setE_false_of_high (u := s.beginTick.withMq rest) he] at h
      exact hd.fallTick hi hq ht he hm hcfg hev (hmq ▸ htail) h
    · have hctrl := runMicroOp_ctrl (u := s.beginTick.withMq rest) h hfall
      exact ⟨ws, hd.of_kept hev hcfg (hmq ▸ htail) (wordsOfOps_noFall hm h hfall) (by rw [hctrl]; rfl)
        (runMicroOp_draws (u := s.beginTick.withMq rest) h (Ne.symm hhead) hfall)⟩

/-- At its completion a request has handed over all its words, and the controller holds what they leave. -/
theorem Inv.contents_at_completion {s v : State} (hi : Inv s) (hn : s.noReset) (hq : s.seq = .run)
    (hrun : runs s.ticksLeft s = .next v) {ws : List DisplayWord} (h : Displays s ws) :
    v.ctrl.contents = s.contentsAfter ws := by
  refine completion_induction (R := fun s v => ∀ ws, Displays s ws → v.ctrl.contents = s.contentsAfter ws)
    ?_ ?_ hi hn hq hrun ws h
  · intro s _ hm ws h
    have hwords := h.words
    rw [hm, wordsOfOps] at hwords
    obtain rfl := List.map_eq_nil_iff.1 hwords.symm
    exact h.contents_beginTick
  · intro s t v hi hstep h hq ih ws hd
    obtain ⟨ws', hd', hkept⟩ := h.displays hstep hi hq hd
    rw [ih ws' hd', hkept]

end Sys2Proof.Machine
end

section
/-! PROOF. The rows that WRITE_TWO_LINES fills (20_memory.md R42, R45, R47, 43_session_ops.md R147;
93_implementation_defined.md U12). -/

namespace Sys2Proof.Machine

open Sys2Proof

/-! ## The rows -/

/-- The entry mode INIT sets: increment, no shift (42_session_init.md R125). -/
abbrev Modes.Increments (m : Modes) : Prop := m.incDec = true ∧ m.shift = false

/-- A data word to a cell of DDRAM (20_memory.md R47). -/
theorem DisplayWord.data_effect {cfg : Config} {c : Controller} (hs : c.space = .ddram)
    (hcell : cellExists cfg .ddram c.ac.toNat = true) (b : Byte) (n : Nat) :
    (DisplayWord.data b).effect cfg n c = { c with
      ddram := Memory.write c.ddram c.ac.toNat b
      ac := if c.advanceStated cfg then BitVec.ofNat 7 (c.address + 1) else freeAc n } := by
  have haddr : c.address = c.ac.toNat := by rw [Controller.address, hs]
  rw [← haddr] at hcell ⊢
  have hstore : c.store cfg b = { c with ddram := Memory.write c.ddram c.address b } := by
    rw [Controller.store_eq, hs, if_pos hcell, Controller.setCells, Controller.cells, ← hs]
  rw [DisplayWord.effect, Controller.advance_spec, hstore]
  rfl

/-- The words of a display row: its first address, then its bytes (43_session_ops.md R147). -/
def rowWords (base : Nat) (text : List Byte) : List DisplayWord := .address (BitVec.ofNat 7 base) :: text.map .data

/-- `c` is `c₀` after the first `k` bytes of the row `text` at `base`, with the first of them written at draw `n`: AC is
past them, or at the end of the row a free value on a part that does not count on there (20_memory.md R42, R47;
93_implementation_defined.md U12). -/
structure RowFilled (cfg : Config) (base : Nat) (n : Nat) (text : List Byte) (c₀ : Controller) (k : Nat)
    (c : Controller) : Prop where
  inside : ∀ j < k, Memory.read c.ddram (base + j) = text[j]?
  outside : ∀ a, ¬ (base ≤ a ∧ a < base + k) → Memory.read c.ddram a = Memory.read c₀.ddram a
  cgram : c.cgram = c₀.cgram
  space : c.space = .ddram
  modes : c.modes = c₀.modes
  ac : c.ac = if k < 8 ∨ cfg.acCountsPastRow = true then BitVec.ofNat 7 (base + k) else freeAc (n + 7)

/-- The address word leaves AC at the first column (20_memory.md R45). -/
theorem RowFilled.start (cfg : Config) (base : Nat) (n m : Nat) (text : List Byte) (c : Controller) :
    RowFilled cfg base n text c 0 ((DisplayWord.address (BitVec.ofNat 7 base)).effect cfg m c) where
  inside _ hj := absurd hj (Nat.not_lt_zero _)
  outside _ _ := rfl
  cgram := rfl
  space := rfl
  modes := rfl
  ac := by
    rw [if_pos (.inl (by decide))]
    rfl

section
variable {cfg : Config} {base : Nat} (hbase : base = 0x00 ∨ base = 0x40)
  (hcells : ∀ k < 8, cellExists cfg .ddram (base + k) = true)
include hbase hcells

/-- The next byte of a row goes to its cell, and AC to the next column (20_memory.md R47). -/
theorem RowFilled.next {n : Nat} {text : List Byte} {c₀ c : Controller} {k : Nat} (h : RowFilled cfg base n text c₀ k c)
    (hmodes : c₀.modes.Increments) (hk : k < 8) {b : Byte} (hb : text[k]? = some b) :
    RowFilled cfg base n text c₀ (k + 1) ((DisplayWord.data b).effect cfg (n + k) c) := by
  have hac : c.ac.toNat = base + k := by
    rw [h.ac, if_pos (.inl hk), BitVec.toNat_ofNat]
    omega
  have haddr : c.address = base + k := by rw [Controller.address, h.space, hac]
  have hadvance : c.advanceStated cfg ↔ k + 1 < 8 ∨ cfg.acCountsPastRow = true := by
    obtain ⟨hinc, hshift⟩ := hmodes
    rw [Controller.advanceStated_iff, h.modes, h.space, haddr, hinc, hshift]
    cases cfg.acCountsPastRow <;> simp <;> omega
  have hnext : BitVec.ofNat 7 (c.address + 1) = BitVec.ofNat 7 (base + (k + 1)) := by rw [haddr, Nat.add_assoc]
  rw [DisplayWord.data_effect h.space (hac ▸ hcells k hk), hac]
  exact {
    inside := fun j hj => by
      rw [Memory.read_write]
      split
      case isTrue hsame =>
        obtain rfl : j = k := by omega
        exact hb.symm
      case isFalse hother => exact h.inside j (by omega)
    outside := fun a ha => by
      rw [Memory.read_write, if_neg (by omega)]
      exact h.outside a (by omega)
    cgram := h.cgram
    space := h.space
    modes := h.modes
    ac := by
      rw [if_congr hadvance hnext rfl]
      split
      case isTrue => rfl
      case isFalse hfree =>
        obtain rfl : k = 7 := by omega
        rfl }

/-- The bytes that are left of a row fill it. -/
theorem RowFilled.rest {n : Nat} {c₀ : Controller} (hmodes : c₀.modes.Increments) (bytes front : List Byte)
    (hlen : (front ++ bytes).length = 8) {c : Controller}
    (h : RowFilled cfg base n (front ++ bytes) c₀ front.length c) :
    RowFilled cfg base n (front ++ bytes) c₀ 8 (displayed cfg (bytes.map .data) (n + front.length) c) := by
  induction bytes generalizing front c with
  | nil =>
    rw [List.append_nil] at hlen
    exact hlen ▸ h
  | cons b bytes ih =>
    have hshift : front ++ b :: bytes = (front ++ [b]) ++ bytes := by simp
    have hcol : front.length < 8 := by
      rw [List.length_append, List.length_cons] at hlen
      omega
    have hnext := h.next hbase hcells hmodes hcol (b := b) (by simp)
    have hcount : front.length + 1 = (front ++ [b]).length := by simp
    rw [hshift] at hlen hnext ⊢
    rw [hcount] at hnext
    rw [List.map_cons, displayed, Nat.add_assoc, hcount]
    exact ih (front ++ [b]) hlen hnext

/-- The words of a row fill it. -/
theorem RowFilled.row {text : List Byte} (hlen : text.length = 8) (n : Nat) {c : Controller}
    (hmodes : c.modes.Increments) : RowFilled cfg base (n + 1) text c 8 (displayed cfg (rowWords base text) n c) :=
  RowFilled.rest hbase hcells hmodes text [] hlen (.start cfg base (n + 1) n text c)

end

/-- Words one after the other. -/
theorem displayed_append (cfg : Config) (ws ws' : List DisplayWord) (n : Nat) (c : Controller) :
    displayed cfg (ws ++ ws') n c = displayed cfg ws' (n + ws.length) (displayed cfg ws n c) := by
  induction ws generalizing n c with
  | nil => rfl
  | cons w ws ih =>
    rw [List.cons_append, displayed, displayed, ih, List.length_cons, Nat.add_assoc, Nat.add_comm 1]

/-! ## The request -/

/-- No micro-program of writes samples (40_transport.md R88). -/
theorem sample_not_mem_program (c : Config) (h : c.wf) (pd : BitVec 16) (xs : List (Transaction × Nat))
    (hfits : ∀ x ∈ xs, Config.fits c x.2) (hwrites : ∀ x ∈ xs, x.1 ≠ .read) : .sample ∉ program c pd xs := by
  induction xs with
  | nil => simp [program]
  | cons x xs ih =>
    obtain ⟨x, d⟩ := x
    obtain ⟨hd, hrestFits⟩ := List.forall_mem_cons.1 hfits
    obtain ⟨hwrite, hrestWrites⟩ := List.forall_mem_cons.1 hwrites
    obtain ⟨e, -, -, hprogram⟩ := program_cons c h pd x d xs hd
    cases x with
    | read => exact absurd rfl hwrite
    | write rs b =>
      simp [hprogram, Transaction.ops, busWriteOps, sample_not_mem_waitOps, ih hrestFits hrestWrites]

/-- The words that WRITE_TWO_LINES starts with. -/
theorem Inv.displays_lines {s : State} (hi : Inv s) (hev : s.events = []) (ha : s.env.attached = true)
    (hk : s.ctrl.known = true) (pd : BitVec 16) (line1 line2 : List Byte) :
    Displays (s.start 0xC (program s.cfg pd (lineTransactions s.cfg line1 line2)))
      (rowWords 0x00 line1 ++ rowWords 0x40 line2) where
  quiet := hev
  attached := ha
  known := by simpa using hk
  writesOnly := sample_not_mem_program s.cfg hi.cfgWf pd _ (fits_lineTransactions s.cfg hi.cfgWf line1 line2)
    (by simp [lineTransactions, or_imp, forall_and])
  words := by
    rw [State.start_mq, wordsOfOps_lines s.cfg hi.cfgWf]
    simp [rowWords, DisplayWord.rs, DisplayWord.byte, encDdram, Function.comp_def]

end Sys2Proof.Machine

namespace Sys2Proof.Proofs

open Sys2Proof Sys2Proof.Machine

/-- Settles O50: the controller has the effects of the 18 words, and the words of each row fill it. -/
theorem writeTwoLinesFillsRows : Obligations.WriteTwoLinesFillsRows := by
  intro s pd line1 line2 hi hev hq hs ha hk hinc hshift h1 h2
  have hn : s.noReset := by simp [State.noReset, hev]
  have ⟨_, _, _, _, _, hcells⟩ := hi.cfgWf
  have hinv := hi.start hq (by decide) (.inr hs) (startsSafely_lines s.cfg hi.cfgWf pd line1 line2 h1 h2)
  obtain ⟨v, hrun, -⟩ := hinv.completes hn rfl
  have hend := hinv.contents_at_completion hn rfl hrun (hi.displays_lines hev ha hk pd line1 line2)
  have row1 := RowFilled.row (cfg := s.cfg) (base := 0x00) (.inl rfl) (fun k hk => by simpa using (hcells k hk).1) h1
    s.draws (c := s.ctrl.contents) ⟨hinc, hshift⟩
  have row2 := RowFilled.row (cfg := s.cfg) (base := 0x40) (.inr rfl) (fun k hk => (hcells k hk).2) h2 (s.draws + 9)
    (c := displayed s.cfg (rowWords 0x00 line1) s.draws s.ctrl.contents) (by rw [row1.modes]; exact ⟨hinc, hshift⟩)
  have hdraws : (rowWords 0x00 line1).length = 9 := by simp [rowWords, h1]
  have hend : v.ctrl.contents = displayed s.cfg (rowWords 0x40 line2) (s.draws + 9)
      (displayed s.cfg (rowWords 0x00 line1) s.draws s.ctrl.contents) := by
    rw [← hdraws, ← displayed_append, hend]
    rfl
  rw [← hend] at row2
  refine ⟨_, v, exec_writeTwoLines_ready pd hs h1 h2, hrun, fun k hk => ⟨?_, row2.inside k hk⟩, fun a ha1 ha2 => ?_,
    row2.cgram.trans row1.cgram, ?_, row2.space, row2.modes.trans row1.modes⟩
  · exact (row2.outside k (by omega)).trans (by simpa using row1.inside k hk)
  · exact (row2.outside a ha2).trans (row1.outside a (by omega))
  · exact row2.ac.trans (if_congr (by simp) rfl rfl)

end Sys2Proof.Proofs
end

section
/-! PROOF. The exceptions of the block: the tick of a rejection, the response codes, and that no step from a state with
the invariant stops (60_exceptions.md R155 to R159). -/

namespace Sys2Proof.Machine

open Sys2Proof

/-- The tick of a rejection: the inputs of the tick are used up and time passes, and of the block only the response
registers change (60_exceptions.md R155). -/
theorem step_rejected {s : State} {r : Request} {rest : List RequesterStep} (hr : s.rspErr ≠ rspReserved)
    (hrst : s.rst = false) (hq : s.seq = .idle) (hreq : s.requester = .present r :: rest) {e : BitVec 2}
    (hrejected : exec (decodeRequest r.req r.lb) s.beginTick.takeRequest = .next (s.beginTick.takeRequest.raise e)) :
    step s = .next { s with
      rspValid := true, rspErr := e, rspData := 0
      ctrl := s.ctrl.elapse s.cfg s.powerCycle s.draws
      requester := rest
      events := s.events.tail
      draws := if s.powerCycle then s.draws + 1 else s.draws } := by
  have hp : s.presented = some r := by rw [State.presented, hreq]
  rw [step_request s hr hrst hq r hp, hrejected, State.takeRequest_beginTick hreq]
  rfl

/-- A request with a reserved opcode is rejected in either session state (60_exceptions.md R157). -/
theorem exec_decodeRequest_illegal (s : State) {req : BitVec 32} (hillegal : 0xD ≤ (reqOp req).toNat) (lb : BitVec 128) :
    exec (decodeRequest req lb) s = .next (s.raise rspIllegal) := by
  obtain ⟨ms, hexec⟩ := exec_decodeRequest req lb s
  rw [hexec, State.accept_illegal s _ ms hillegal]

/-- The acceptance check produces no reserved response code (60_exceptions.md R158). -/
theorem State.accept_rspErr_legal {s : State} (hr : s.rspErr ≠ rspReserved) (op : BitVec 4) (ms : List MicroOp) :
    (s.accept op ms).rspErr ≠ rspReserved := by
  obtain ⟨-, h⟩ | ⟨-, -, -, h⟩ | ⟨-, -, h⟩ := s.accept_cases op ms <;> rw [h]
  · rw [State.raise_rspErr]
    decide
  · rw [State.raise_rspErr]
    decide
  · exact hr

/-- The tick in which an idle block takes a request answers: every request word reaches the acceptance check
(42_session_init.md R117). -/
theorem step_request_answers {s : State} (hr : s.rspErr ≠ rspReserved) (hrst : s.rst = false) (hq : s.seq = .idle)
    {r : Request} (hp : s.presented = some r) : ∃ t, step s = .next t := by
  obtain ⟨_, hexec⟩ := exec_decodeRequest r.req r.lb s.beginTick.takeRequest
  exact ⟨_, (step_request s hr hrst hq r hp).trans hexec⟩

end Sys2Proof.Machine

namespace Sys2Proof.Proofs

open Sys2Proof Sys2Proof.Machine

/-- Settles O36, by what the tick is: a running block completes or runs on without a timing violation, and an idle block
takes whatever is presented. -/
theorem invNeverStops : Obligations.InvNeverStops := by
  intro s hi
  cases hrst : s.rst with
  | true => exact ⟨_, step_rst s hi.rspLegal hrst⟩
  | false =>
    cases hq : s.seq with
    | run =>
      obtain ⟨-, -, hstep⟩ | ⟨t, hstep, -⟩ := hi.step_running hrst hq
      · exact ⟨_, hstep⟩
      · exact ⟨t, hstep⟩
    | idle =>
      cases hp : s.presented with
      | none => exact ⟨_, step_quiet s hi.rspLegal hrst hq hp⟩
      | some r => exact step_request_answers hi.rspLegal hrst hq hp

/-- Settles O17: before INIT the acceptance check rejects every other request that is executed. -/
theorem rejectedBeforeInit : Obligations.RejectedBeforeInit := by
  intro s r rest hr hrst hq hs hreq hlow hhigh
  refine step_rejected hr hrst hq hreq ?_
  have hne : reqOp r.req ≠ 0x0 := fun h0 => by simp [h0] at hlow
  rw [exec_decodeRequest_uninit (by simpa using hs) hne, if_neg (by omega)]
  rfl

/-- Settles O32: code 3 stops the tick, and whatever the tick is, it leaves RSP_ERR or writes another code. -/
theorem reservedResponseStops : Obligations.ReservedResponseStops := by
  refine ⟨fun s h => step_reservedResponse h, fun s t h => ?_⟩
  obtain ⟨hr, ⟨-, rfl⟩ | ⟨-, -, -, rfl⟩ | ⟨-, -, -, -, rfl⟩ | ⟨m, rest, -, -, -, -, hop⟩ | ⟨-, -, -, rfl⟩ |
    ⟨r, -, -, -, hreq⟩⟩ := step_cases h
  · rw [State.resetAction_rspErr]
    decide
  · exact hr
  · rw [State.complete_rspErr]
    decide
  · obtain ⟨_, _, _, _, _, _, _, _, _, rfl⟩ := runMicroOp_frame hop
    exact hr
  · exact hr
  · obtain ⟨ms, hexec⟩ := exec_decodeRequest r.req r.lb s.beginTick.takeRequest
    cases hexec.symm.trans hreq
    exact State.accept_rspErr_legal (s := s.beginTick.takeRequest) hr _ _

/-- Settles O18: the acceptance check rejects the reserved opcodes before it looks at SESSION. -/
theorem reservedRequestsRejected : Obligations.ReservedRequestsRejected := by
  refine ⟨fun s => ?_, fun s odd => ?_, fun s r rest hr hrst hq hreq hillegal => ?_⟩
  · exact congrArg Host.Outcome.next (s.accept_illegal 0xD [] (by decide))
  · exact congrArg Host.Outcome.next (s.accept_illegal (if odd then 0xF else 0xE) [] (by cases odd <;> decide))
  · exact step_rejected hr hrst hq hreq (exec_decodeRequest_illegal _ hillegal _)

end Sys2Proof.Proofs
end

section
/-! PROOF. What the block cannot see: the byte it has read, the controller and who sets the data lines, the power cycles
and the draws. States that differ in these alone do so after every tick (60_exceptions.md R159,
70_reset_and_hazards.md R180). -/

namespace Sys2Proof.Machine

open Sys2Proof

/-- `t` is `u` but for the byte read, the controller, who sets the data lines, the power cycles ahead and the draws. -/
inductive State.AlikeToBlock (u : State) : State → Prop
  | replace (rdata rspData : Byte) (env : LineEnv) (ctrl : Controller) (events : List TickEvent) (draws : Nat)
      (resets : events.map TickEvent.rst = u.events.map TickEvent.rst) :
      AlikeToBlock u { u with
        rdata := rdata, rspData := rspData, env := env, ctrl := ctrl, events := events, draws := draws }

/-- Two machines with the same registers but for the byte read, the same parameters, requests and resets are alike to the
block. -/
theorem State.AlikeToBlock.of_block {s t : State} (hcfg : s.cfg = t.cfg)
    (hblock : s.block.withoutReads = t.block.withoutReads) (hrequester : s.requester = t.requester)
    (hresets : s.events.map TickEvent.rst = t.events.map TickEvent.rst) : s.AlikeToBlock t := by
  cases s
  cases t
  cases hcfg
  cases hblock
  cases hrequester
  exact .replace _ _ _ _ _ _ hresets.symm

/-- The registers but for the byte read are equal. -/
theorem State.AlikeToBlock.block {u t : State} (h : u.AlikeToBlock t) :
    t.block.withoutReads = u.block.withoutReads := by
  obtain ⟨_, _, _, _, _, _, -⟩ := h
  rfl

/-- The same resets ahead are the same reset in this tick (70_reset_and_hazards.md R175). -/
theorem State.rst_congr {u t : State} (h : u.events.map TickEvent.rst = t.events.map TickEvent.rst) : u.rst = t.rst := by
  have head (s : State) : s.rst = (s.events.map TickEvent.rst).headD false := by
    unfold State.rst
    cases s.events <;> rfl
  rw [head, head, h]

/-- What decides what a tick is, and TIMER with it, is equal (42_session_init.md R116). -/
theorem State.AlikeToBlock.tick {u t : State} (h : u.AlikeToBlock t) :
    u.rspErr = t.rspErr ∧ u.rst = t.rst ∧ u.seq = t.seq ∧ u.timer = t.timer ∧ u.mq = t.mq ∧ u.presented = t.presented := by
  obtain ⟨_, _, _, _, _, _, hresets⟩ := h
  exact ⟨rfl, State.rst_congr hresets.symm, rfl, rfl, rfl, rfl⟩

/-- A tick uses up the same resets (70_reset_and_hazards.md R175). -/
theorem State.AlikeToBlock.beginTick {u t : State} (h : u.AlikeToBlock t) : u.beginTick.AlikeToBlock t.beginTick := by
  obtain ⟨_, _, _, _, _, _, hresets⟩ := h
  exact .replace _ _ _ _ _ _ (by simp [List.map_tail, hresets])

theorem State.AlikeToBlock.withMq {u t : State} (h : u.AlikeToBlock t) (ms : List MicroOp) :
    (u.withMq ms).AlikeToBlock (t.withMq ms) := by
  obtain ⟨_, _, _, _, _, _, hresets⟩ := h
  exact .replace _ _ _ _ _ _ hresets

theorem State.AlikeToBlock.withTimer {u t : State} (h : u.AlikeToBlock t) (n : BitVec 32) :
    (u.withTimer n).AlikeToBlock (t.withTimer n) := by
  obtain ⟨_, _, _, _, _, _, hresets⟩ := h
  exact .replace _ _ _ _ _ _ hresets

/-- The requests presented are the same, and the same one is taken (42_session_init.md R115). -/
theorem State.AlikeToBlock.takeRequest {u t : State} (h : u.AlikeToBlock t) :
    u.takeRequest.AlikeToBlock t.takeRequest := by
  obtain ⟨_, _, _, _, _, _, hresets⟩ := h
  exact .replace _ _ _ _ _ _ hresets

/-- The reset action writes every register of the block (70_reset_and_hazards.md R176). -/
theorem State.AlikeToBlock.resetAction {u t : State} (h : u.AlikeToBlock t) :
    u.resetAction.AlikeToBlock t.resetAction := by
  obtain ⟨_, _, _, _, _, _, hresets⟩ := h
  exact .replace _ _ _ _ _ _ hresets

/-- A completion copies the byte read to the response, and nothing else depends on it (42_session_init.md R120). -/
theorem State.AlikeToBlock.complete {u t : State} (h : u.AlikeToBlock t) : u.complete.AlikeToBlock t.complete := by
  obtain ⟨_, _, _, _, _, _, hresets⟩ := h
  exact .replace _ _ _ _ _ _ hresets

/-- The acceptance check reads OP and SESSION (42_session_init.md R117). -/
theorem State.AlikeToBlock.accept {u t : State} (h : u.AlikeToBlock t) (op : BitVec 4) (ms : List MicroOp) :
    (u.accept op ms).AlikeToBlock (t.accept op ms) := by
  obtain ⟨_, _, _, _, _, _, hresets⟩ := h
  unfold State.accept
  split
  · exact .replace _ _ _ _ _ _ hresets
  · split
    · exact .replace _ _ _ _ _ _ hresets
    · exact .replace _ _ _ _ _ _ hresets

/-- The meaning of a request reads the parameters, and that of a bus word changes what the block does not see. -/
theorem exec_alikeToBlock (i : Instr) {u t u' t' : State} (h : u.AlikeToBlock t) (hu : exec i u = .next u')
    (ht : exec i t = .next t') : u'.AlikeToBlock t' := by
  have haccept := h.accept
  obtain ⟨_, _, _, _, _, _, hresets⟩ := h
  cases i
  case writeTwoLines line1 line2 pd =>
    by_cases hlen : line1.length = rowLen ∧ line2.length = rowLen
    · rw [exec_writeTwoLines pd _ hlen.1 hlen.2] at hu ht
      cases hu
      cases ht
      exact haccept _ _
    · simp [exec, execWriteTwoLines, hlen] at hu
  case init | command | writeByte | readByte | clearDisplay | returnHome | entryModeSet | displayOnOff
      | cursorDisplayShift | functionSet | setCgramAddress | setDdramAddress | reservedD | reservedEF =>
    cases hu
    cases ht
    exact haccept _ _
  all_goals
    cases hu
    cases ht
    exact .replace _ _ _ _ _ _ hresets

/-- A micro-op reads no register of the block but its own, and only SAMPLE the data lines (40_transport.md R81). -/
theorem runMicroOp_alikeToBlock {m : MicroOp} {u t u' t' : State} (h : u.AlikeToBlock t)
    (hu : (runMicroOp m u).outcome = .next u') (ht : (runMicroOp m t).outcome = .next t') : u'.AlikeToBlock t' := by
  obtain ⟨_, _, _, _, _, _, hresets⟩ := h
  cases m with
  | setE v =>
    obtain ⟨_, _, rfl⟩ := setE_frame hu
    obtain ⟨_, _, rfl⟩ := setE_frame ht
    exact .replace _ _ _ _ _ _ hresets
  | dirOut | dirIn | drive _ | setRs _ | setRw _ | sample | wait _ =>
    cases hu
    cases ht
    exact .replace _ _ _ _ _ _ hresets

/-- A tick from states that are alike to the block leaves states that are (60_exceptions.md R159). -/
theorem step_alikeToBlock {u t u' t' : State} (h : u.AlikeToBlock t) (hu : step u = .next u') (ht : step t = .next t') :
    u'.AlikeToBlock t' := by
  have hbegin := h.beginTick
  obtain ⟨herr, hrst, hseq, htimer, hmq, hpresented⟩ := h.tick
  have hcases := step_cases hu
  rw [herr, hrst, hseq, htimer, hmq, hpresented] at hcases
  obtain ⟨hr, ⟨hrst, rfl⟩ | ⟨hrst, hq, hwait, rfl⟩ | ⟨hrst, hq, hzero, hm, rfl⟩ | ⟨m, rest, hrst, hq, hzero, hm, hop⟩ |
    ⟨hrst, hq, hp, rfl⟩ | ⟨r, hrst, hq, hp, hreq⟩⟩ := hcases
  · cases (step_rst t hr hrst).symm.trans ht
    exact hbegin.resetAction
  · cases (step_wait t hr hrst hq hwait).symm.trans ht
    exact hbegin.withTimer _
  · cases (step_complete t hr hrst hq hzero hm).symm.trans ht
    exact hbegin.complete
  · exact runMicroOp_alikeToBlock (hbegin.withMq rest) hop ((step_microOp t hr hrst hq hzero m rest hm).symm.trans ht)
  · cases (step_quiet t hr hrst hq hp).symm.trans ht
    exact hbegin
  · exact exec_alikeToBlock _ hbegin.takeRequest hreq ((step_request t hr hrst hq r hp).symm.trans ht)

/-- Two runs that do not stop, from states that are alike to the block, have the same registers but for the byte read in
every tick. -/
theorem State.AlikeToBlock.map_statesOf {s t : State} (h : s.AlikeToBlock t) (hs : Inv s) (ht : Inv t) (n : Nat) :
    (statesOf n s).map (·.block.withoutReads) = (statesOf n t).map (·.block.withoutReads) := by
  induction n generalizing s t with
  | zero => rfl
  | succ n ih =>
    obtain ⟨s', hs'⟩ := Proofs.invNeverStops s hs
    obtain ⟨t', ht'⟩ := Proofs.invNeverStops t ht
    have hrest := ih (step_alikeToBlock h hs' ht') (Proofs.stepKeepsInv s s' hs hs') (Proofs.stepKeepsInv t t' ht ht')
    simp [statesOf, hs', ht', h.block, hrest]

end Sys2Proof.Machine

namespace Sys2Proof.Proofs

open Sys2Proof Sys2Proof.Machine

/-- Settles O51: the two machines are alike to the block, and stay so in every tick. -/
theorem blockCannotSeeController : Obligations.BlockCannotSeeController := by
  intro n s t hs ht hcfg hblock hrequester hresets
  exact (State.AlikeToBlock.of_block hcfg hblock hrequester hresets).map_statesOf hs ht n

end Sys2Proof.Proofs
end

section
/-! PROOF. A reset, contention on the data lines, and the 4-bit mode (70_reset_and_hazards.md R176, R177, R185, R189). -/

namespace Sys2Proof.Machine

open Sys2Proof

/-- The tick of a reset takes no request: the presented one stays presented (70_reset_and_hazards.md R176). -/
theorem State.presented_resetAction {s : State} {r : Request} (h : s.presented = some r) :
    s.beginTick.resetAction.presented = some r := by
  have hheld : s.beginTick.resetAction.requester = s.requester := dropIdle_of_presented h
  rw [← h, State.presented, State.presented, hheld]

/-- No byte of Function Set is 0x06: its bit 5 is set (30_encoding.md R70). -/
theorem encFuncset_ne_handshakeLast (dl n f : Bool) : encFuncset dl n f ≠ 0x06 := by
  revert dl n f
  decide

/-- A word that is not the last of the handshake leaves a controller with nothing known, if its effect does
(20_memory.md R50). -/
theorem State.latch_loses (s : State) {w : BitVec 10} (hw : w ≠ 0x006) {eff : Nat → Controller → Controller}
    (heff : ∀ n c, (eff n c).known = false ∧ (eff n c).ddram = [] ∧ (eff n c).cgram = []) :
    (s.latch w eff).ctrl.known = false ∧ (s.latch w eff).ctrl.ddram = [] ∧ (s.latch w eff).ctrl.cgram = [] := by
  cases hk : s.ctrl.known
  · rw [State.latch_unknown hk, Controller.handshake_other _ _ _ hw]
    exact ⟨hk, rfl, rfl⟩
  · rw [State.latch_known hk hw]
    exact heff s.draws s.ctrl

end Sys2Proof.Machine

namespace Sys2Proof.Proofs

open Sys2Proof Sys2Proof.Machine

/-- Settles O28: the tick is the reset action, which loses a controller only where it cuts a pulse. -/
theorem resetTakesPriority : Obligations.ResetTakesPriority := by
  intro s hr hrst
  refine ⟨_, step_rst s hr hrst, rfl, fun _ => State.presented_resetAction, fun he => ?_, fun he => ?_⟩
  · rw [State.resetAction_ctrl, State.beginTick_eO, he]
    rfl
  · rw [State.resetAction_ctrl, State.beginTick_eO, he]
    exact ⟨rfl, rfl, rfl⟩

/-- Settles O40: with E and RW high the invariant gives the data lines the direction of a read. -/
theorem noContention : Obligations.NoContention := by
  intro s hi he hrw i
  have hdir : s.dir = .input := by simpa [hrw] using hi.strobe he
  simp [State.dataPin_eq, hdir]

/-- Settles O60: the word loses a known controller, and is not the one that would make an unknown one known. -/
theorem fourBitModeIsUnknown : Obligations.FourBitModeIsUnknown := fun s n f =>
  ⟨_, rfl, s.latch_loses (busWord_ne_handshakeLast (.inr (encFuncset_ne_handshakeLast false n f)))
    fun _ _ => ⟨rfl, rfl, rfl⟩⟩

end Sys2Proof.Proofs
end

section
/-! PROOF. The edges of E in time: which ticks make one, and what the micro-program's timing says of it
(20_memory.md R49, 70_reset_and_hazards.md R181, R182). -/

namespace Sys2Proof.Machine

open Sys2Proof

/-- What a step does to E: it keeps its level while time passes, or its SET_E raises or lowers E, or a reset cuts the
pulse. -/
inductive StrobeTick (s t : State) : Prop
  | kept (level : t.eO = s.eO) (since : t.ctrl.sinceEdge = s.ctrl.sinceEdge + s.cfg.tTick)
  | raised (rest : List MicroOp) (low : s.eO = false) (running : s.seq = .run) (timer : s.timer = 0)
      (head : s.mq = .setE true :: rest) (tick : (riseE (s.beginTick.withMq rest)).outcome = .next t)
  | lowered (rest : List MicroOp) (high : s.eO = true) (running : s.seq = .run) (timer : s.timer = 0)
      (head : s.mq = .setE false :: rest) (tick : (fallE (s.beginTick.withMq rest)).outcome = .next t)
  | cut (reset : s.rst = true) (high : s.eO = true) (low : t.eO = false) (since : t.ctrl.sinceEdge = 0)

/-- A tick that leaves E and the controller as they were after its start only lets time pass. -/
theorem StrobeTick.of_eq {s t : State} (he : t.eO = s.eO) (hsince : t.ctrl.sinceEdge = s.beginTick.ctrl.sinceEdge) :
    StrobeTick s t :=
  .kept he (hsince.trans (Controller.elapse_sinceEdge _ _ _ _))

/-- The tick of a reset makes an edge only where E is high (70_reset_and_hazards.md R177). -/
theorem StrobeTick.resetTick {s : State} (hrst : s.rst = true) : StrobeTick s s.beginTick.resetAction := by
  cases he : s.eO
  · refine .of_eq he.symm ?_
    rw [State.resetAction_ctrl, State.beginTick_eO, he]
    rfl
  · refine .cut hrst he rfl ?_
    rw [State.resetAction_ctrl, State.beginTick_eO, he]
    rfl

/-- The tick of a micro-op makes an edge only where SET_E changes the level (40_transport.md R81). -/
theorem StrobeTick.microOpTick {s t : State} (hq : s.seq = .run) (ht : s.timer = 0) {m : MicroOp} {rest : List MicroOp}
    (hm : s.mq = m :: rest) (h : (runMicroOp m (s.beginTick.withMq rest)).outcome = .next t) : StrobeTick s t := by
  cases m with
  | setE v =>
    rw [runMicroOp] at h
    by_cases he : (s.beginTick.withMq rest).eO = v
    · rw [← he, setE_level] at h
      cases h
      exact .of_eq rfl rfl
    · cases v with
      | true =>
        have hlow : s.eO = false := by simpa using he
        rw [setE_true_of_low (u := s.beginTick.withMq rest) hlow] at h
        exact .raised rest hlow hq ht hm h
      | false =>
        have hhigh : s.eO = true := by simpa using he
        rw [setE_false_of_high (u := s.beginTick.withMq rest) hhigh] at h
        exact .lowered rest hhigh hq ht hm h
  | dirOut | dirIn | drive _ | setRs _ | setRw _ | sample | wait _ =>
    cases h
    exact .of_eq rfl rfl

/-- The acceptance check makes no edge of E. -/
theorem State.accept_strobe (s : State) (op : BitVec 4) (ms : List MicroOp) :
    (s.accept op ms).eO = s.eO ∧ (s.accept op ms).ctrl.sinceEdge = s.ctrl.sinceEdge := by
  obtain ⟨-, h⟩ | ⟨-, -, -, h⟩ | ⟨-, -, h⟩ := s.accept_cases op ms <;> rw [h]
  · exact ⟨rfl, rfl⟩
  · exact ⟨rfl, rfl⟩
  · exact ⟨rfl, State.start_ctrl_sinceEdge _ _ _⟩

/-- What every step does to E (40_transport.md R81, 70_reset_and_hazards.md R176). -/
theorem strobeTick_of_step {s t : State} (h : step s = .next t) : StrobeTick s t := by
  obtain ⟨-, ⟨hrst, rfl⟩ | ⟨-, -, -, rfl⟩ | ⟨-, -, -, -, rfl⟩ | ⟨m, rest, -, hq, ht, hm, hop⟩ | ⟨-, -, -, rfl⟩ |
    ⟨r, -, -, -, hreq⟩⟩ := step_cases h
  · exact .resetTick hrst
  · exact .of_eq rfl rfl
  · exact .of_eq rfl rfl
  · exact .microOpTick hq ht hm hop
  · exact .of_eq rfl rfl
  · obtain ⟨ms, hexec⟩ := exec_decodeRequest r.req r.lb s.beginTick.takeRequest
    cases hexec.symm.trans hreq
    obtain ⟨he, hsince⟩ := State.accept_strobe s.beginTick.takeRequest (reqOp r.req) ms
    exact .of_eq he hsince

/-- With no wait to count down, the time of the lines is that since the last edge of E. -/
theorem State.lineView_since {s : State} (ht : s.timer = 0) : s.lineView.since = s.ctrl.sinceEdge := by
  simp [State.lineView, ht]

end Sys2Proof.Machine

namespace Sys2Proof.Proofs

open Sys2Proof Sys2Proof.Machine

/-- Settles O38, by what the step does to E: only its edges end the time, and a falling edge of a safe micro-program comes
T_EH after the rising one. -/
theorem strobeWidth : Obligations.StrobeWidth := by
  refine ⟨fun s t h => ?_, fun s t hi h hrst he he' => ?_⟩
  · cases strobeTick_of_step h with
    | kept hlevel hsince => rw [if_pos hlevel, hsince]
    | raised rest hlow _ _ _ htick => rw [riseE_next htick, if_neg (by simp [hlow])]
    | lowered rest hhigh _ _ _ htick =>
      obtain ⟨c, n, hfall, -, hsince, -⟩ := fallE_spec (s.beginTick.withMq rest)
      cases hfall.symm.trans htick
      rw [if_neg (by simp [hhigh])]
      exact hsince
    | cut _ hhigh hlow hsince => rw [hsince, if_neg (by simp [hhigh, hlow])]
  · cases strobeTick_of_step h with
    | kept hlevel => cases he.symm.trans (hlevel.symm.trans he')
    | raised _ hlow => cases he.symm.trans hlow
    | cut hreset => cases hrst.symm.trans hreset
    | lowered rest _ hq ht hm htick =>
      have hsafe := hi.running hq
      rw [hm, SafeOps, if_pos (show s.lineView.e = true from he), State.lineView_since ht] at hsafe
      obtain ⟨hwide, -⟩ := hsafe
      obtain ⟨c, n, hfall, -, -, hneed, -⟩ := fallE_spec (s.beginTick.withMq rest)
      cases hfall.symm.trans htick
      exact ⟨hwide, hneed.trans (State.neededAfterWord_of_strobe (s.beginTick.withMq rest) (hi.strobe he))⟩

/-- Settles O39, by what the step does to E: only a SET_E raises it, where the micro-program's timing allows. -/
theorem settlingRespected : Obligations.SettlingRespected := by
  intro s t hi h he he'
  cases strobeTick_of_step h with
  | kept hlevel => cases he.symm.trans (hlevel.symm.trans he')
  | lowered _ hhigh => cases he.symm.trans hhigh
  | cut _ hhigh => cases he.symm.trans hhigh
  | raised rest _ hq ht hm htick =>
    have hsafe := hi.running hq
    rw [hm, SafeOps, State.lineView_since ht] at hsafe
    obtain ⟨-, hsettled, hdir, -⟩ := hsafe
    rw [riseE_next htick]
    exact ⟨hsettled, hdir⟩

end Sys2Proof.Proofs
end

section
/-! PROOF. The length of every request in ticks (42_session_init.md R128, 70_reset_and_hazards.md R191). -/

namespace Sys2Proof.Machine

open Sys2Proof

/-- Ticks add up over the parts of a micro-program. -/
theorem ticksOfOps_flatMap {α : Type} (xs : List α) (f : α → List MicroOp) :
    ticksOfOps (xs.flatMap f) = (xs.map fun x => ticksOfOps (f x)).sum := by
  induction xs with
  | nil => rfl
  | cons x xs ih => rw [List.flatMap_cons, ticksOfOps_append, ih, List.map_cons, List.sum_cons]

/-- A started request has its micro-program before it, and its completion tick. -/
theorem State.ticksLeft_start {s : State} (ht : s.timer = 0) (op : BitVec 4) (ms : List MicroOp) :
    (s.start op ms).ticksLeft = ticksOfOps ms + 1 := by
  simp [State.ticksLeft, ht]

/-- Either transaction takes 6 + W(T_EH) ticks (40_transport.md R95). -/
theorem ticksOfOps_transaction (c : Config) (h : Config.fits c c.tEH) (x : Transaction) :
    ticksOfOps (x.ops c) = 6 + ticksOf c c.tEH := by
  cases x with
  | write rs b => exact ticksOfOps_busWriteOps c h rs b
  | read => exact ticksOfOps_busReadOps c h

section
variable (c : Config) (h : c.wf) (pd : BitVec 16)
include h

/-- The ticks of one transaction and its final wait (43_session_ops.md R135). -/
theorem ticksOfOps_single (x : Transaction) : ticksOfOps (single c pd x) =
    6 + ticksOf c c.tEH + ticksOf c (max (x.floor c) (pdNs pd)) := by
  have ⟨_, _, ⟨hEH, _⟩, _⟩ := h
  rw [single_eq, ticksOfOps_append, ticksOfOps_transaction c hEH,
    ticksOfOps_waitOps c _ (fits_max c (fits_floor c h x) (fits_pdNs c h pd))]

/-- The ticks of INIT's micro-program, where no stated wait is below T_CMD (42_session_init.md R128). -/
theorem ticksOfOps_initProgram (hwake : c.tCmd ≤ c.tWake1) (hshort : c.tCmd ≤ c.tInitShort) :
    ticksOfOps (initProgram c pd) = 1 + ticksOf c c.tPwr + 7 * (6 + ticksOf c c.tEH) + ticksOf c c.tWake1 +
      5 * ticksOf c c.tInitShort + ticksOf c (max c.tCmd (pdNs pd)) := by
  have ⟨_, _, ⟨hEH, hPwr, hWake1, hShort, _, _, hCmd, _⟩, _⟩ := h
  have hlast := ticksOfOps_waitOps c _ (fits_max c hCmd (fits_pdNs c h pd))
  simp only [initProgram_eq, Nat.max_eq_left hwake, Nat.max_eq_left hshort, ticksOfOps_append,
    ticksOfOps_busWriteOps c hEH, ticksOfOps_waitOps c _ hPwr, ticksOfOps_waitOps c _ hWake1,
    ticksOfOps_waitOps c _ hShort, hlast, ticksOfOps]
  omega

/-- The ticks of WRITE_TWO_LINES' micro-program, where T_DATA is not below T_CMD (43_session_ops.md R147). -/
theorem ticksOfOps_lines (hdata : c.tCmd ≤ c.tData) {line1 line2 : List Byte} (h1 : line1.length = 8)
    (h2 : line2.length = 8) : ticksOfOps (program c pd (lineTransactions c line1 line2)) =
      18 * (6 + ticksOf c c.tEH) + 2 * ticksOf c c.tCmd + 15 * ticksOf c c.tData +
        ticksOf c (max c.tData (pdNs pd)) := by
  have ⟨_, _, ⟨hEH, _, _, _, hData, _, hCmd, _⟩, _⟩ := h
  have hlast := ticksOfOps_waitOps c _ (fits_max c hData (fits_pdNs c h pd))
  obtain ⟨front, last, rfl⟩ : ∃ front last, line2 = front ++ [last] :=
    (List.eq_nil_or_concat' line2).resolve_left (by rintro rfl; simp at h2)
  have hfront : front.length = 7 := by simpa using h2
  simp only [program_lines, Nat.max_eq_left hdata, ticksOfOps_append, ticksOfOps_flatMap,
    ticksOfOps_busWriteOps c hEH, ticksOfOps_waitOps c _ hData, ticksOfOps_waitOps c _ hCmd, hlast,
    List.map_const', List.sum_replicate, h1, hfront, smul_eq_mul]
  omega

end

/-- A request of one transaction in READY takes 8 + W(T_EH) ticks and its final wait, acceptance and completion included
(70_reset_and_hazards.md R191). -/
theorem exec_single_length {s : State} (h : s.cfg.wf) (ht : s.timer = 0) (hs : s.session = .ready) {i : Instr}
    {op : BitVec 4} {pd : BitVec 16} {x : Transaction} {d : Nat}
    (hi : exec i s = .next (s.accept op (single s.cfg pd x))) (hop : op.toNat < 0xD) (hd : x.floor s.cfg = d) :
    ∃ t, exec i s = .next t ∧
      1 + t.ticksLeft = 8 + ticksOf s.cfg s.cfg.tEH + ticksOf s.cfg (max d (pd.toNat * 1000)) := by
  refine ⟨_, hi, ?_⟩
  rw [State.accept_ready s op _ hop hs, State.ticksLeft_start ht, ticksOfOps_single _ h, hd, pdNs]
  omega

end Sys2Proof.Machine

namespace Sys2Proof.Proofs

open Sys2Proof Sys2Proof.Machine

/-- Settles O42: each request starts with its micro-program, whose ticks and the two of acceptance and completion are the
length of the table. -/
theorem requestLengths : Obligations.RequestLengths := by
  intro s pd a f g h line1 line2 hwf ht hwake hshort hdata h1 h2 w one
  refine ⟨⟨_, exec_init pd s, ?_⟩, fun hs => ⟨?_, ?_, ?_, _, exec_writeTwoLines_ready pd hs h1 h2, ?_⟩⟩
  · rw [State.ticksLeft_start ht, ticksOfOps_initProgram _ hwf pd hwake hshort, pdNs]
    simp only [w]
    omega
  · refine exec_single_length hwf ht hs rfl (by decide) ?_
    simp [Transaction.floor, settlingFloor]
  · obtain ⟨-, hwrite, -⟩ := floorByClass s.cfg a
    obtain ⟨-, -, hread⟩ := floorByClass s.cfg 0
    simp only [List.forall_mem_cons]
    refine ⟨exec_single_length hwf ht hs rfl (by decide) hwrite, exec_single_length hwf ht hs rfl (by decide) hread,
      exec_single_length hwf ht hs rfl (by decide) ?_, exec_single_length hwf ht hs rfl (by decide) ?_,
      exec_single_length hwf ht hs rfl (by decide) ?_, exec_single_length hwf ht hs rfl (by decide) ?_,
      exec_single_length hwf ht hs rfl (by decide) ?_, exec_single_length hwf ht hs rfl (by decide) ?_,
      fun _ hnil => nomatch hnil⟩
    · exact settlingFloor_of_class _ (byteClass_encEntry f g) (by decide)
    · exact settlingFloor_of_class _ (byteClass_encDisplay f g h) (by decide)
    · exact settlingFloor_of_class _ (byteClass_encShift f g) (by decide)
    · exact settlingFloor_of_class _ (byteClass_encFuncset f g h) (by decide)
    · exact settlingFloor_of_class _ (byteClass_encCgram a) (by decide)
    · exact settlingFloor_of_class _ (byteClass_encDdram a) (by decide)
  · simp only [List.forall_mem_cons]
    exact ⟨exec_single_length hwf ht hs rfl (by decide) rfl, exec_single_length hwf ht hs rfl (by decide) rfl,
      fun _ hnil => nomatch hnil⟩
  · rw [State.ticksLeft_start ht, ticksOfOps_lines _ hwf pd hdata h1 h2, pdNs]
    simp only [w]
    omega

end Sys2Proof.Proofs
end
